-- ==== Sys2Proof/Word.lean ====
section
/-! DEFINITION. The words of the block: bytes of a telegram, the command word, the response word and the length
input. Bit 0 of each is its least significant bit (00_scope.md R15). -/

namespace Sys2Proof

/-- One byte of a telegram, unsigned (20_memory.md R40, R42). -/
abbrev Byte := BitVec 8

/-- The command word `cmd[15:0]` (30_encoding.md R60). -/
abbrev Command := BitVec 16

/-- The response word `rsp[31:0]` (30_encoding.md R70). -/
abbrev Response := BitVec 32

/-- The length input `tg_len[4:0]` (10_state.md R27). -/
abbrev LengthInput := BitVec 5

/-- The telegram input `tg_data[127:0]` as it lies on its port (10_state.md R27, R28). -/
abbrev PortData := BitVec 128

end Sys2Proof
end

