-- ==== Sys2Proof/Config.lean ====
section
/-! DEFINITION. The implementation parameters of 00_scope.md R6. The widths LEN_W, CMD_W, RSP_W and CH_W are the
widths of the types of Word.lean and Syntax.lean; what remains is here. -/

namespace Sys2Proof.Config

/-- TG_MAX (R6, decision D3): the largest telegram length in bytes; byte addresses are 0 to 15. -/
abbrev tgMax : Nat := 16

/-- N_CHANNELS (R6, decision D10): the recognised channel codes are 0 to 24. -/
abbrev nChannels : Nat := 25

/-- VAL_W (R6, decision D7): the width of the response's value field, two's complement. -/
abbrev valWidth : Nat := 20

/-- T_PD (R6, 70_reset_and_hazards.md R198): the propagation delay, left OPEN by the spec. A parameter without a
value, on which no rule and no definition of the model depends (log entry 8, DESIGN CHOICE, safe). -/
opaque propagationDelay : Nat

end Sys2Proof.Config
end

