-- ==== Sys2Proof/Syntax.lean ====
section
/-! DEFINITION. The command set "BFX command set, version 1" (00_scope.md R2, R9): one constructor for each of the
33 rows of the opcode table (30_encoding.md R64), in the table's order. Operand fields keep the widths of
30_encoding.md R60. -/

namespace Sys2Proof

/-- A decoded command. -/
inductive Instr where
  /-- BIT boff, bit (40_bitfield_reader.md R90). -/
  | bit (boff : BitVec 4) (bit : BitVec 3)
  /-- MSK boff, mask (R91). -/
  | msk (boff : BitVec 4) (mask : BitVec 8)
  /-- EXT boff, lsb, width (R92). -/
  | ext (boff : BitVec 4) (lsb : BitVec 4) (width : BitVec 5)
  /-- EXT2 boff, lsb, width (R93). -/
  | ext2 (boff : BitVec 4) (lsb : BitVec 4) (width : BitVec 5)
  /-- MTDEC (41_enum_codecs.md R100). -/
  | mtdec
  /-- OMDEC (R101). -/
  | omdec
  /-- RES.SAFETY_MODE, channel 0 (42_field_decoders.md R110). -/
  | resSafetyMode
  /-- RES.BYPASS_OPENED, channel 1 (R111). -/
  | resBypassOpened
  /-- RES.SUPPLY_FLAP_OPENED, channel 2 (R112). -/
  | resSupplyFlapOpened
  /-- RES.EXHAUST_FLAP_OPENED, channel 3 (R113). -/
  | resExhaustFlapOpened
  /-- RES.DEFROST_MODE, channel 4 (R114). -/
  | resDefrostMode
  /-- RES.COOLING_PROTECTION, channel 5 (R115). -/
  | resCoolingProtection
  /-- RES.OUTDOOR_HEATER, channel 6 (R116). -/
  | resOutdoorHeater
  /-- RES.SUPPLY_HEATER, channel 7 (R117). -/
  | resSupplyHeater
  /-- RES.DRAIN_HEATER, channel 8 (R118). -/
  | resDrainHeater
  /-- RES.TIMER_MODE, channel 9 (R119). -/
  | resTimerMode
  /-- RES.FILTER_MAINTENANCE, channel 10 (R120). -/
  | resFilterMaintenance
  /-- RES.WEEKLY_TIMER, channel 11 (R121). -/
  | resWeeklyTimer
  /-- RES.ROOM_TEMP_CONTROL, channel 12 (R122). -/
  | resRoomTempControl
  /-- RES.MASTER_SLAVE, channel 13 (R123). -/
  | resMasterSlave
  /-- RES.AIR_QUALITY_1, channel 14 (R124). -/
  | resAirQuality1
  /-- RES.AIR_QUALITY_2, channel 15 (R125). -/
  | resAirQuality2
  /-- RES.OUTDOOR_TEMP, channel 16 (R126). -/
  | resOutdoorTemp
  /-- RES.SUPPLY_TEMP, channel 17 (R127). -/
  | resSupplyTemp
  /-- RES.INDOOR_TEMP, channel 18 (R128). -/
  | resIndoorTemp
  /-- RES.EXHAUST_TEMP, channel 19 (R129). -/
  | resExhaustTemp
  /-- RES.SUPPLY_FLOW, channel 20 (R130). -/
  | resSupplyFlow
  /-- RES.EXHAUST_FLOW, channel 21 (R131). -/
  | resExhaustFlow
  /-- RES.SUPPLY_FAN_SPEED, channel 22 (R132). -/
  | resSupplyFanSpeed
  /-- RES.EXHAUST_FAN_SPEED, channel 23 (R133). -/
  | resExhaustFanSpeed
  /-- RES.OPERATION_MODE, channel 24 (R134). -/
  | resOperationMode
  /-- RES.UNKNOWN, a channel code 25 to 255 (43_channel_dispatcher.md R143). -/
  | resUnknown (chan : BitVec 8)
  /-- ILLEGAL, a word that spells no operation (30_encoding.md R66). -/
  | illegal (word : Command)
  deriving DecidableEq, Repr

end Sys2Proof
end

