-- ==== Sys2Proof/WellFormed.lean ====
section
/-! DEFINITION. Which terms of Instr stand for a row of the opcode table: the operand fields of the other rows hold
exactly the values their encoding admits, so only RES.UNKNOWN and ILLEGAL carry a check. The check of ILLEGAL is
written on numbers, straight from the table of 30_encoding.md R66; the decoder has its own form. -/

namespace Sys2Proof

/-- 30_encoding.md R66: the words that spell no operation, case by case as its table lists them. -/
def spellsNoOperation (w : Command) : Bool :=
  let op := w.toNat / 2 ^ 13
  op == 7
    || (op == 0 && w.toNat / 2 ^ 3 % 2 ^ 6 != 0)
    || (op == 1 && w.toNat / 2 ^ 8 % 2 != 0)
    || ((op == 4 || op == 5) && w.toNat % 2 ^ 13 != 0)
    || (op == 6 && w.toNat / 2 ^ 8 % 2 ^ 5 != 0)

/-- A term of Instr that some command word spells. -/
def Instr.wellFormed : Instr → Bool
  | .resUnknown chan => decide (Config.nChannels ≤ chan.toNat)
  | .illegal w => spellsNoOperation w
  | .bit _ _ | .msk _ _ | .ext _ _ _ | .ext2 _ _ _ | .mtdec | .omdec
  | .resSafetyMode | .resBypassOpened | .resSupplyFlapOpened | .resExhaustFlapOpened | .resDefrostMode
  | .resCoolingProtection | .resOutdoorHeater | .resSupplyHeater | .resDrainHeater | .resTimerMode
  | .resFilterMaintenance | .resWeeklyTimer | .resRoomTempControl | .resMasterSlave | .resAirQuality1
  | .resAirQuality2 | .resOutdoorTemp | .resSupplyTemp | .resIndoorTemp | .resExhaustTemp | .resSupplyFlow
  | .resExhaustFlow | .resSupplyFanSpeed | .resExhaustFanSpeed | .resOperationMode => true

end Sys2Proof
end

