-- ==== Sys2Proof/Decode.lean ====
section
/-! DEFINITION. The command decoder (30_encoding.md R60 to R66), total on every 16-bit word, the encoder of the same
formats, and the opcode table itself with its first-match order (R64). A word that spells no operation is rejected
by name: it decodes to `illegal`, and `illegalCase` names which case of R66 it falls under. The command arrives on a
port of its own (R27, R55), so there are no instruction bytes in memory and no fetch byte order (R44; log entry 12). -/

namespace Sys2Proof

/-- `op`, bits 15:13 (R60). -/
def opField (w : Command) : BitVec 3 := w.extractLsb 15 13
/-- `boff`, bits 12:9 (R60). -/
def boffField (w : Command) : BitVec 4 := w.extractLsb 12 9
/-- `bit`, bits 2:0 (R60). -/
def bitField (w : Command) : BitVec 3 := w.extractLsb 2 0
/-- `mask`, bits 7:0 (R60). -/
def maskField (w : Command) : BitVec 8 := w.extractLsb 7 0
/-- `lsb`, bits 8:5 (R60). -/
def lsbField (w : Command) : BitVec 4 := w.extractLsb 8 5
/-- `width`, bits 4:0 (R60). -/
def widthField (w : Command) : BitVec 5 := w.extractLsb 4 0
/-- `chan`, bits 7:0 (R60). -/
def chanField (w : Command) : BitVec 8 := w.extractLsb 7 0

/-- The must-be-zero bits 8:3 of format B (R61). -/
def zeroBitsB (w : Command) : BitVec 6 := w.extractLsb 8 3
/-- The must-be-zero bit 8 of format M (R61). -/
def zeroBitM (w : Command) : BitVec 1 := w.extractLsb 8 8
/-- The must-be-zero bits 12:0 of format Z (R61). -/
def zeroBitsZ (w : Command) : BitVec 13 := w.extractLsb 12 0
/-- The must-be-zero bits 12:8 of format C (R61). -/
def zeroBitsC (w : Command) : BitVec 5 := w.extractLsb 12 8

/-- The cases of R66, by name. -/
inductive IllegalCase where
  /-- `cmd[15:13] == 7`. -/
  | reservedOp
  /-- BIT with one of bits 8:3 set. -/
  | bitMustBeZero
  /-- MSK with bit 8 set. -/
  | mskMustBeZero
  /-- MTDEC or OMDEC with one of bits 12:0 set. -/
  | codecMustBeZero
  /-- RES with one of bits 12:8 set. -/
  | resMustBeZero
  deriving DecidableEq, Repr

/-- R66: the case under which a word spells no operation; `none` for a legal word. -/
def illegalCase (w : Command) : Option IllegalCase :=
  match (opField w).toNat with
  | 0 => if zeroBitsB w = 0 then none else some .bitMustBeZero
  | 1 => if zeroBitM w = 0 then none else some .mskMustBeZero
  | 2 => none
  | 3 => none
  | 4 => if zeroBitsZ w = 0 then none else some .codecMustBeZero
  | 5 => if zeroBitsZ w = 0 then none else some .codecMustBeZero
  | 6 => if zeroBitsC w = 0 then none else some .resMustBeZero
  | _ => some .reservedOp

/-- R74, R143: the RES row of a channel code. -/
def decodeChannel (chan : BitVec 8) : Instr :=
  match chan.toNat with
  | 0 => .resSafetyMode
  | 1 => .resBypassOpened
  | 2 => .resSupplyFlapOpened
  | 3 => .resExhaustFlapOpened
  | 4 => .resDefrostMode
  | 5 => .resCoolingProtection
  | 6 => .resOutdoorHeater
  | 7 => .resSupplyHeater
  | 8 => .resDrainHeater
  | 9 => .resTimerMode
  | 10 => .resFilterMaintenance
  | 11 => .resWeeklyTimer
  | 12 => .resRoomTempControl
  | 13 => .resMasterSlave
  | 14 => .resAirQuality1
  | 15 => .resAirQuality2
  | 16 => .resOutdoorTemp
  | 17 => .resSupplyTemp
  | 18 => .resIndoorTemp
  | 19 => .resExhaustTemp
  | 20 => .resSupplyFlow
  | 21 => .resExhaustFlow
  | 22 => .resSupplyFanSpeed
  | 23 => .resExhaustFanSpeed
  | 24 => .resOperationMode
  | _ => .resUnknown chan

/-- R62: a legal word, by its `op`. -/
def decodeLegal (w : Command) : Instr :=
  match (opField w).toNat with
  | 0 => .bit (boffField w) (bitField w)
  | 1 => .msk (boffField w) (maskField w)
  | 2 => .ext (boffField w) (lsbField w) (widthField w)
  | 3 => .ext2 (boffField w) (lsbField w) (widthField w)
  | 4 => .mtdec
  | 5 => .omdec
  | 6 => decodeChannel (chanField w)
  | _ => .illegal w

/-- R62: `Legal` is tested first, then the word is decoded by its `op`. -/
def decode (w : Command) : Instr :=
  match illegalCase w with
  | some _ => .illegal w
  | none => decodeLegal w

/-- The instruction of a row of the opcode table whose `nbits` bits are `w`, bit 0 the least significant and every
bit from `nbits` up zero. Every command has 16 bits (R68), so nothing longer is a command. -/
def decodeTableWord (nbits w : Nat) : Option Instr :=
  if nbits ≤ 16 ∧ w < 2 ^ nbits then some (decode (BitVec.ofNat 16 w)) else none

/-- Format C (R61): `op` = 6, bits 12:8 zero, the channel code. -/
def formatC (chan : BitVec 8) : Command := 6#3 ++ 0#5 ++ chan

/-- The channel code of a RES row (R74); `none` for the other rows. -/
def Instr.channelCode : Instr → Option (BitVec 8)
  | .resSafetyMode => some 0
  | .resBypassOpened => some 1
  | .resSupplyFlapOpened => some 2
  | .resExhaustFlapOpened => some 3
  | .resDefrostMode => some 4
  | .resCoolingProtection => some 5
  | .resOutdoorHeater => some 6
  | .resSupplyHeater => some 7
  | .resDrainHeater => some 8
  | .resTimerMode => some 9
  | .resFilterMaintenance => some 10
  | .resWeeklyTimer => some 11
  | .resRoomTempControl => some 12
  | .resMasterSlave => some 13
  | .resAirQuality1 => some 14
  | .resAirQuality2 => some 15
  | .resOutdoorTemp => some 16
  | .resSupplyTemp => some 17
  | .resIndoorTemp => some 18
  | .resExhaustTemp => some 19
  | .resSupplyFlow => some 20
  | .resExhaustFlow => some 21
  | .resSupplyFanSpeed => some 22
  | .resExhaustFanSpeed => some 23
  | .resOperationMode => some 24
  | .resUnknown chan => some chan
  | .bit _ _ | .msk _ _ | .ext _ _ _ | .ext2 _ _ _ | .mtdec | .omdec | .illegal _ => none

/-- The command word of an instruction, by the formats of R61 and the codes of R63 and R74. -/
def encode (i : Instr) : Command :=
  match i with
  | .bit boff bit => 0#3 ++ boff ++ 0#6 ++ bit
  | .msk boff mask => 1#3 ++ boff ++ 0#1 ++ mask
  | .ext boff lsb width => 2#3 ++ boff ++ lsb ++ width
  | .ext2 boff lsb width => 3#3 ++ boff ++ lsb ++ width
  | .mtdec => 4#3 ++ 0#13
  | .omdec => 5#3 ++ 0#13
  | .resSafetyMode => formatC 0
  | .resBypassOpened => formatC 1
  | .resSupplyFlapOpened => formatC 2
  | .resExhaustFlapOpened => formatC 3
  | .resDefrostMode => formatC 4
  | .resCoolingProtection => formatC 5
  | .resOutdoorHeater => formatC 6
  | .resSupplyHeater => formatC 7
  | .resDrainHeater => formatC 8
  | .resTimerMode => formatC 9
  | .resFilterMaintenance => formatC 10
  | .resWeeklyTimer => formatC 11
  | .resRoomTempControl => formatC 12
  | .resMasterSlave => formatC 13
  | .resAirQuality1 => formatC 14
  | .resAirQuality2 => formatC 15
  | .resOutdoorTemp => formatC 16
  | .resSupplyTemp => formatC 17
  | .resIndoorTemp => formatC 18
  | .resExhaustTemp => formatC 19
  | .resSupplyFlow => formatC 20
  | .resExhaustFlow => formatC 21
  | .resSupplyFanSpeed => formatC 22
  | .resExhaustFanSpeed => formatC 23
  | .resOperationMode => formatC 24
  | .resUnknown chan => formatC chan
  | .illegal w => w

/-- One row of the opcode table (R64): a word `w` selects it when `w &&& mask = pattern`. -/
structure OpcodeRow where
  order : Nat
  mnemonic : String
  mask : Command
  pattern : Command
  deriving DecidableEq, Repr

/-- Whether a word selects a row (R64). -/
def OpcodeRow.selects (r : OpcodeRow) (w : Command) : Bool := w &&& r.mask == r.pattern

/-- The rows of the generic reads and of the two codecs (R64). -/
def opcodeRowsReads : List OpcodeRow := [
  ⟨1, "BIT", 0xE1F8, 0x0000⟩,
  ⟨2, "MSK", 0xE100, 0x2000⟩,
  ⟨3, "EXT", 0xE000, 0x4000⟩,
  ⟨4, "EXT2", 0xE000, 0x6000⟩,
  ⟨5, "MTDEC", 0xFFFF, 0x8000⟩,
  ⟨6, "OMDEC", 0xFFFF, 0xA000⟩]

/-- The rows of channels 0 to 12 (R64, R74). -/
def opcodeRowsResLow : List OpcodeRow := [
  ⟨7, "RES.SAFETY_MODE", 0xFFFF, 0xC000⟩,
  ⟨8, "RES.BYPASS_OPENED", 0xFFFF, 0xC001⟩,
  ⟨9, "RES.SUPPLY_FLAP_OPENED", 0xFFFF, 0xC002⟩,
  ⟨10, "RES.EXHAUST_FLAP_OPENED", 0xFFFF, 0xC003⟩,
  ⟨11, "RES.DEFROST_MODE", 0xFFFF, 0xC004⟩,
  ⟨12, "RES.COOLING_PROTECTION", 0xFFFF, 0xC005⟩,
  ⟨13, "RES.OUTDOOR_HEATER", 0xFFFF, 0xC006⟩,
  ⟨14, "RES.SUPPLY_HEATER", 0xFFFF, 0xC007⟩,
  ⟨15, "RES.DRAIN_HEATER", 0xFFFF, 0xC008⟩,
  ⟨16, "RES.TIMER_MODE", 0xFFFF, 0xC009⟩,
  ⟨17, "RES.FILTER_MAINTENANCE", 0xFFFF, 0xC00A⟩,
  ⟨18, "RES.WEEKLY_TIMER", 0xFFFF, 0xC00B⟩,
  ⟨19, "RES.ROOM_TEMP_CONTROL", 0xFFFF, 0xC00C⟩]

/-- The rows of channels 13 to 24 (R64, R74). -/
def opcodeRowsResHigh : List OpcodeRow := [
  ⟨20, "RES.MASTER_SLAVE", 0xFFFF, 0xC00D⟩,
  ⟨21, "RES.AIR_QUALITY_1", 0xFFFF, 0xC00E⟩,
  ⟨22, "RES.AIR_QUALITY_2", 0xFFFF, 0xC00F⟩,
  ⟨23, "RES.OUTDOOR_TEMP", 0xFFFF, 0xC010⟩,
  ⟨24, "RES.SUPPLY_TEMP", 0xFFFF, 0xC011⟩,
  ⟨25, "RES.INDOOR_TEMP", 0xFFFF, 0xC012⟩,
  ⟨26, "RES.EXHAUST_TEMP", 0xFFFF, 0xC013⟩,
  ⟨27, "RES.SUPPLY_FLOW", 0xFFFF, 0xC014⟩,
  ⟨28, "RES.EXHAUST_FLOW", 0xFFFF, 0xC015⟩,
  ⟨29, "RES.SUPPLY_FAN_SPEED", 0xFFFF, 0xC016⟩,
  ⟨30, "RES.EXHAUST_FAN_SPEED", 0xFFFF, 0xC017⟩,
  ⟨31, "RES.OPERATION_MODE", 0xFFFF, 0xC018⟩]

/-- The 33 rows in the order in which a decoder tries them (R64). -/
def opcodeTable : List OpcodeRow :=
  opcodeRowsReads ++ opcodeRowsResLow ++ opcodeRowsResHigh ++
    [⟨32, "RES.UNKNOWN", 0xFF00, 0xC000⟩, ⟨33, "ILLEGAL", 0x0000, 0x0000⟩]

/-- R64: the first row of the table that a word selects. -/
def firstRow (w : Command) : Option OpcodeRow := opcodeTable.find? fun r => r.selects w

/-- The key `order` of an instruction's row in the opcode table (R64). -/
def Instr.tableOrder : Instr → Nat
  | .bit _ _ => 1
  | .msk _ _ => 2
  | .ext _ _ _ => 3
  | .ext2 _ _ _ => 4
  | .mtdec => 5
  | .omdec => 6
  | .resSafetyMode => 7
  | .resBypassOpened => 8
  | .resSupplyFlapOpened => 9
  | .resExhaustFlapOpened => 10
  | .resDefrostMode => 11
  | .resCoolingProtection => 12
  | .resOutdoorHeater => 13
  | .resSupplyHeater => 14
  | .resDrainHeater => 15
  | .resTimerMode => 16
  | .resFilterMaintenance => 17
  | .resWeeklyTimer => 18
  | .resRoomTempControl => 19
  | .resMasterSlave => 20
  | .resAirQuality1 => 21
  | .resAirQuality2 => 22
  | .resOutdoorTemp => 23
  | .resSupplyTemp => 24
  | .resIndoorTemp => 25
  | .resExhaustTemp => 26
  | .resSupplyFlow => 27
  | .resExhaustFlow => 28
  | .resSupplyFanSpeed => 29
  | .resExhaustFanSpeed => 30
  | .resOperationMode => 31
  | .resUnknown _ => 32
  | .illegal _ => 33

end Sys2Proof
end

