-- ==== Sys2Proof/Machine/Operands.lean ====
section
/-! DEFINITION. Operand forms (30_encoding.md R65) and the arithmetic of fields (00_scope.md R16, 40_bitfield_reader.md
R92, R94, 42_field_decoders.md R136). Every operand is an unsigned field of the command word, zero-extended; every
computation is exact on natural numbers. -/

namespace Sys2Proof.Machine

/-- `boff = zext(cmd[12:9])`, a byte address as it stands (R65, R96). -/
def byteAddress (boff : BitVec 4) : Nat := boff.toNat
/-- `bit = zext(cmd[2:0])` (R65). -/
def bitOffset (bit : BitVec 3) : Nat := bit.toNat
/-- `mask = cmd[7:0]` (R65). -/
def maskPattern (mask : BitVec 8) : Nat := mask.toNat
/-- `lsb = zext(cmd[8:5])` (R65). -/
def fieldOffset (lsb : BitVec 4) : Nat := lsb.toNat
/-- `width = zext(cmd[4:0])` (R65). -/
def fieldWidth (width : BitVec 5) : Nat := width.toNat

/-- One bit of a number, `(v >> k) & 1` (R90, R135). -/
def bitAt (v k : Nat) : Nat := (v >>> k) &&& 1

/-- A bit range shifted down to bit 0, `(v >> lsb) mod 2^width` (R92, R93). -/
def bitRange (v lsb width : Nat) : Nat := (v >>> lsb) % 2 ^ width

/-- The offset that both temperature formulas subtract, as a signed number (R126, R127, R136). -/
def lessOffset (raw : Nat) : Int := (raw : Int) - 64

end Sys2Proof.Machine
end

