-- ==== Sys2Proof/Machine/State.lean ====
section
/-! DEFINITION. The state of the machine: the four ports of 10_state.md R27, and nothing else, because the block
holds no state of its own (R20 to R26). Plain data. -/

namespace Sys2Proof.Machine

/-- The telegram bytes on `tg_data`, by byte address (10_state.md R28, 20_memory.md R40): a list of cells in one
canonical form (`Memory.wf`). -/
abbrev Memory := List Host.Cell

/-- The block's ports. `tg`, `tgLen` and `cmd` are inputs that the host drives; `rsp` is the response of the request
evaluated last (log entry 5). -/
structure State where
  /-- `tg_data` (R27), as bytes. -/
  tg : Memory
  /-- `tg_len` (R27). -/
  tgLen : LengthInput
  /-- `cmd` (R27). -/
  cmd : Command
  /-- `rsp` (R27). -/
  rsp : Response
  deriving DecidableEq, Repr

/-- What stops the machine: nothing does. Each error of the block is a response that it delivers (00_scope.md R11,
60_exceptions.md R171) and every request ends (70_reset_and_hazards.md R199), so this type has no constructor
(log entry 9, DEDUCED, safe). -/
inductive Fault where
  deriving DecidableEq, Repr

/-- What the model gives no meaning. -/
inductive Refusal where
  /-- Raised by an arm of `exec` whose instruction has no meaning yet; safe. No arm raises it: all 33 rows have
  their meaning. -/
  | notModelled (mnemonic : String)
  deriving DecidableEq, Repr

/-- The ports before the host's first request. The spec gives the inputs no initial value (10_state.md R36): all
zero here (log entry 3, DESIGN CHOICE, unsafe). `rsp` is at every moment, power-up included, the function of the
present inputs (R36): for these inputs an empty telegram read by BIT 0, 0, hence ERROR(BufferBounds) (log entry 4,
DESIGN CHOICE, unsafe). -/
def State.reset : State := { tg := [], tgLen := 0#5, cmd := 0#16, rsp := 0xE0000000#32 }

end Sys2Proof.Machine
end

