-- ==== Sys2Proof/Machine/Memory.lean ====
section
/-! DEFINITION. The telegram's bytes as a memory (20_memory.md R40): read, the host's write, the canonical form, and
the packing of 10_state.md R28 between the bytes and the 128-bit port. -/

namespace Sys2Proof.Machine

/-- What an address without a cell reads as: 0x00. Every one of the 16 bytes of the port carries a value; the
canonical form leaves the zero bytes unlisted (log entry 2, DESIGN CHOICE, unsafe). -/
def Memory.unlisted : Byte := 0#8

/-- The byte at an address. -/
def Memory.read : Memory → Nat → Byte
  | [], _ => Memory.unlisted
  | (b, v) :: m, a => if b = a then v else Memory.read m a

/-- Canonical from address `lo` on: addresses strictly rising, all on the port (below TG_MAX), no cell that holds
what an unlisted address reads as. -/
def Memory.wfFrom : Nat → Memory → Bool
  | _, [] => true
  | lo, (a, v) :: m =>
    decide (lo ≤ a) && decide (a < Config.tgMax) && (v != Memory.unlisted) && Memory.wfFrom (a + 1) m

/-- The canonical form: equal telegram inputs are equal lists. -/
def Memory.wf (m : Memory) : Bool := Memory.wfFrom 0 m

/-- Set one cell, keeping the canonical form. -/
def Memory.setCell : Memory → Nat → Byte → Memory
  | [], a, v => if v = Memory.unlisted then [] else [(a, v)]
  | (b, u) :: m, a, v =>
    if a < b then (if v = Memory.unlisted then (b, u) :: m else (a, v) :: (b, u) :: m)
    else if a = b then (if v = Memory.unlisted then m else (a, v) :: m)
    else (b, u) :: Memory.setCell m a v

/-- The HOST drives one byte of the telegram input. No operation of the block writes (20_memory.md R51). The port has
no byte at or above TG_MAX: the host cuts longer telegrams (70_reset_and_hazards.md R193). -/
def Memory.drive (m : Memory) (a : Nat) (v : Byte) : Memory :=
  if a < Config.tgMax then Memory.setCell m a v else m

/-- Byte `i` of the port, `tg_data[8*i+7 : 8*i]` (10_state.md R28). -/
def portByte (d : PortData) (i : Nat) : Byte := d.extractLsb' (8 * i) 8

/-- The cells of `n` bytes of the port from byte `lo` on. -/
def Memory.ofPortFrom (d : PortData) : Nat → Nat → Memory
  | _, 0 => []
  | lo, n + 1 =>
    if portByte d lo = Memory.unlisted then Memory.ofPortFrom d (lo + 1) n
    else (lo, portByte d lo) :: Memory.ofPortFrom d (lo + 1) n

/-- The bytes that a port word carries (R28). -/
def Memory.ofPort (d : PortData) : Memory := Memory.ofPortFrom d 0 Config.tgMax

/-- The lowest `n` bytes as they lie on the port. -/
def Memory.toPortUpTo (m : Memory) : Nat → PortData
  | 0 => 0#128
  | n + 1 => Memory.toPortUpTo m n ||| ((Memory.read m n).setWidth 128 <<< (8 * n))

/-- The port word that carries the bytes (R28). -/
def Memory.toPort (m : Memory) : PortData := Memory.toPortUpTo m Config.tgMax

end Sys2Proof.Machine
end

