-- ==== Sys2Proof/Machine/Result.lean ====
section
/-! DEFINITION. The abstract response (00_scope.md R17, 10_state.md R33), the code tables of 30_encoding.md R71 to
R73 and the packing into the response word (R70). -/

namespace Sys2Proof.Machine

/-- The kinds of error (30_encoding.md R72, 60_exceptions.md R161). -/
inductive ErrKind where
  | invalidEnumCode
  | bufferBounds
  | illegalCommand
  deriving DecidableEq, Repr

/-- The tags of a response (30_encoding.md R71). -/
inductive Tag where
  | value
  | undefined
  | unsupported
  | error
  deriving DecidableEq, Repr

/-- The units of a value (30_encoding.md R73). -/
inductive PhysUnit where
  | raw
  | boolOnOff
  | boolOpenClosed
  | percent
  | celsius
  | m3PerH
  | hertz
  | enumMsgType
  | enumOpMode
  deriving DecidableEq, Repr

/-- The result of a request (10_state.md R33). -/
inductive Result where
  | value (unit : PhysUnit) (v : Int)
  | undefined
  | unsupported
  | error (kind : ErrKind)
  deriving DecidableEq, Repr

/-- Tag codes (30_encoding.md R71). -/
def Tag.code : Tag → BitVec 2
  | .value => 0
  | .undefined => 1
  | .unsupported => 2
  | .error => 3

/-- Error-kind codes (30_encoding.md R72); 0 stands for "none". -/
def ErrKind.code : ErrKind → BitVec 2
  | .invalidEnumCode => 1
  | .bufferBounds => 2
  | .illegalCommand => 3

/-- Unit codes (30_encoding.md R73); 9 to 15 stand for none. -/
def PhysUnit.code : PhysUnit → BitVec 4
  | .raw => 0
  | .boolOnOff => 1
  | .boolOpenClosed => 2
  | .percent => 3
  | .celsius => 4
  | .m3PerH => 5
  | .hertz => 6
  | .enumMsgType => 7
  | .enumOpMode => 8

/-- The tag of a result (30_encoding.md R71). -/
def Result.tag : Result → Tag
  | .value _ _ => .value
  | .undefined => .undefined
  | .unsupported => .unsupported
  | .error _ => .error

/-- The five fields of the response word side by side: tag 31:30, err 29:28, unit 27:24, zero 23:20, val 19:0
(30_encoding.md R70). -/
def responseWord (tag : Tag) (err : BitVec 2) (unit : BitVec 4) (val : BitVec 20) : Response :=
  tag.code ++ err ++ unit ++ 0#4 ++ val

/-- `Pack` (30_encoding.md R70): `err` is 0 unless the tag is ERROR, `unit` and `val` are 0 unless it is VALUE;
`val` is `v mod 2^20`. -/
def Result.pack : Result → Response
  | .value u v => responseWord .value 0 u.code (BitVec.ofInt Config.valWidth v)
  | .undefined => responseWord .undefined 0 0 0
  | .unsupported => responseWord .unsupported 0 0 0
  | .error k => responseWord .error k.code 0 0

end Sys2Proof.Machine
end

