-- ==== Sys2Proof/Machine/Ops.lean ====
section
/-! DEFINITION. The operations every meaning is written with (00_scope.md R17): the effective length, a telegram byte,
the bounds-checked read, the delivery of a result, the delivery of an error, and the read of the command port. -/

namespace Sys2Proof.Machine

/-- The effective length `len = min(tg_len, 16)` (20_memory.md R41). -/
def State.len (s : State) : Nat := min s.tgLen.toNat Config.tgMax

/-- Telegram byte `b[i]` (00_scope.md R17). -/
def State.byte (s : State) (i : Nat) : Byte := Memory.read s.tg i

/-- The number made of `n` adjacent bytes, the byte at the lowest address the most significant (20_memory.md R44). -/
def bigEndian (s : State) (addr : Nat) : Nat → Nat
  | 0 => 0
  | n + 1 => bigEndian s addr n * 256 + (s.byte (addr + n)).toNat

/-- `MemRead(addr, n)` (00_scope.md R17, 20_memory.md R43): raise BufferBounds unless all `n` bytes lie below `len`;
a failed read gives no data. -/
def memRead (s : State) (addr n : Nat) : Except ErrKind Nat :=
  if addr + n ≤ s.len then .ok (bigEndian s addr n) else .error .bufferBounds

/-- Drive a result on `rsp`, packed (30_encoding.md R62, R70). Nothing else changes (20_memory.md R51). -/
def respond (r : Result) (s : State) : State := { s with rsp := r.pack }

/-- Taking an exception: the block "does one thing: it drives the ERROR response on `rsp`" (60_exceptions.md R171).
Nothing is saved, masked or vectored, and there is no return from it (R172). -/
def raise (k : ErrKind) (s : State) : State := respond (.error k) s

/-- The end of a request: its result, or the error it raised. -/
def deliver (o : Except ErrKind Result) (s : State) : State :=
  match o with
  | .ok r => respond r s
  | .error k => raise k s

/-- The command word of the request, on a port of its own: nothing is fetched from memory (20_memory.md R55). -/
def fetch (s : State) : Command := s.cmd

end Sys2Proof.Machine
end

