-- ==== Sys2Proof/Machine/BitFieldReader.lean ====
section
/-! DEFINITION. The meanings of BIT, MSK, EXT and EXT2 (40_bitfield_reader.md R90 to R97). -/

namespace Sys2Proof.Machine

/-- BIT: one bit of one byte (R90). -/
def readBit (s : State) (boff : BitVec 4) (bit : BitVec 3) : Except ErrKind Result := do
  let v ← memRead s (byteAddress boff) 1
  return .value .raw (bitAt v (bitOffset bit))

/-- MSK: one byte through a mask, not shifted (R91). -/
def readMasked (s : State) (boff : BitVec 4) (mask : BitVec 8) : Except ErrKind Result := do
  let v ← memRead s (byteAddress boff) 1
  return .value .raw ((v &&& maskPattern mask : Nat) : Int)

/-- EXT: a bit range of one byte (R92). -/
def readRange (s : State) (boff lsb : BitVec 4) (width : BitVec 5) : Except ErrKind Result := do
  let v ← memRead s (byteAddress boff) 1
  return .value .raw (bitRange v (fieldOffset lsb) (fieldWidth width))

/-- EXT2: a bit range of two adjacent bytes, both always read (R93). -/
def readRangeOfPair (s : State) (boff lsb : BitVec 4) (width : BitVec 5) : Except ErrKind Result := do
  let w ← memRead s (byteAddress boff) 2
  return .value .raw (bitRange w (fieldOffset lsb) (fieldWidth width))

/-- BIT (R90). -/
def execBit (boff : BitVec 4) (bit : BitVec 3) (s : State) : Host.Outcome State Fault Refusal :=
  .next (deliver (readBit s boff bit) s)

/-- MSK (R91). -/
def execMsk (boff : BitVec 4) (mask : BitVec 8) (s : State) : Host.Outcome State Fault Refusal :=
  .next (deliver (readMasked s boff mask) s)

/-- EXT (R92). -/
def execExt (boff lsb : BitVec 4) (width : BitVec 5) (s : State) : Host.Outcome State Fault Refusal :=
  .next (deliver (readRange s boff lsb width) s)

/-- EXT2 (R93). -/
def execExt2 (boff lsb : BitVec 4) (width : BitVec 5) (s : State) : Host.Outcome State Fault Refusal :=
  .next (deliver (readRangeOfPair s boff lsb width) s)

end Sys2Proof.Machine
end

