-- ==== Sys2Proof/Machine/EnumCodecs.lean ====
section
/-! DEFINITION. The two enumeration mappers (41_enum_codecs.md) with their look-up tables (30_encoding.md R75, R76),
and the meanings of MTDEC and OMDEC. -/

namespace Sys2Proof.Machine

/-- 10_state.md R31. -/
inductive MessageType where
  | remoteTransmissionRequest
  | control
  | basicStatus
  | extendedStatus
  deriving DecidableEq, Repr

/-- 10_state.md R32. -/
inductive OperationMode where
  | off
  | level1
  | level2
  | level3
  | level4
  | automatic
  | automaticOnDemand
  | supplyAirOnly
  | exhaustAirOnly
  deriving DecidableEq, Repr

/-- The look-up table of R75. -/
def messageTypeOfCode (c : Nat) : Option MessageType :=
  match c with
  | 0 => some .remoteTransmissionRequest
  | 1 => some .control
  | 2 => some .basicStatus
  | 3 => some .extendedStatus
  | _ => none

/-- The ordinal of a message type in a response (R31, R75). -/
def MessageType.ordinal : MessageType → Nat
  | .remoteTransmissionRequest => 0
  | .control => 1
  | .basicStatus => 2
  | .extendedStatus => 3

/-- The look-up table of R76, kept as an explicit table: it is not contiguous. -/
def operationModeOfCode (c : Nat) : Option OperationMode :=
  match c with
  | 0 => some .off
  | 1 => some .level1
  | 2 => some .level2
  | 3 => some .level3
  | 4 => some .level4
  | 11 => some .automatic
  | 12 => some .automaticOnDemand
  | 13 => some .supplyAirOnly
  | 14 => some .exhaustAirOnly
  | _ => none

/-- The ordinal of an operation mode in a response: its place in the list of nine (R32, R76). -/
def OperationMode.ordinal : OperationMode → Nat
  | .off => 0
  | .level1 => 1
  | .level2 => 2
  | .level3 => 3
  | .level4 => 4
  | .automatic => 5
  | .automaticOnDemand => 6
  | .supplyAirOnly => 7
  | .exhaustAirOnly => 8

/-- The message type of byte 0, bits 7:5; InvalidEnumCode for codes 4 to 7 (R100). -/
def decodeMessageType (v : Nat) : Except ErrKind MessageType :=
  match messageTypeOfCode ((v >>> 5) &&& 7) with
  | some t => .ok t
  | none => .error .invalidEnumCode

/-- The operation mode of byte 0, bits 3:0; InvalidEnumCode for codes 5 to 10 and 15 (R101). -/
def decodeOperationMode (v : Nat) : Except ErrKind OperationMode :=
  match operationModeOfCode (v &&& 15) with
  | some m => .ok m
  | none => .error .invalidEnumCode

/-- MTDEC (R100). -/
def readMessageType (s : State) : Except ErrKind Result := do
  let v ← memRead s 0 1
  let t ← decodeMessageType v
  return .value .enumMsgType t.ordinal

/-- OMDEC (R101), and the body of RES.OPERATION_MODE (42_field_decoders.md R134). -/
def readOperationMode (s : State) : Except ErrKind Result := do
  let v ← memRead s 0 1
  let m ← decodeOperationMode v
  return .value .enumOpMode m.ordinal

/-- MTDEC (R100). -/
def execMtdec (s : State) : Host.Outcome State Fault Refusal := .next (deliver (readMessageType s) s)

/-- OMDEC (R101). -/
def execOmdec (s : State) : Host.Outcome State Fault Refusal := .next (deliver (readOperationMode s) s)

end Sys2Proof.Machine
end

