-- ==== Sys2Proof/Machine/FieldDecoders.lean ====
section
/-! DEFINITION. The 25 field decoders (42_field_decoders.md R110 to R139): what a channel yields once the dispatcher
has found a BASIC_STATUS telegram. -/

namespace Sys2Proof.Machine

/-- The flag decoder `Flag(B, k, unit)` (R135). -/
def flag (s : State) (addr k : Nat) (u : PhysUnit) : Except ErrKind Result := do
  let v ← memRead s addr 1
  return .value u (bitAt v k)

/-- The low 7 bits of a byte as a percentage, not clamped (R124, R125, R138). -/
def airQuality (s : State) (addr : Nat) : Except ErrKind Result := do
  let v ← memRead s addr 1
  return .value .percent ((v &&& 0x7F : Nat) : Int)

/-- The unsupported decoder: no byte is read (R139). -/
def unsupported : Except ErrKind Result := .ok .unsupported

/-- R110. -/
def safetyMode (s : State) : Except ErrKind Result := flag s 1 3 .boolOnOff
/-- R111. -/
def bypassOpened (s : State) : Except ErrKind Result := flag s 1 2 .boolOpenClosed
/-- R112. -/
def supplyFlapOpened (s : State) : Except ErrKind Result := flag s 1 1 .boolOpenClosed
/-- R113. -/
def exhaustFlapOpened (s : State) : Except ErrKind Result := flag s 1 0 .boolOpenClosed
/-- R114. -/
def defrostMode (s : State) : Except ErrKind Result := flag s 2 7 .boolOnOff
/-- R115. -/
def coolingProtection (s : State) : Except ErrKind Result := flag s 2 6 .boolOnOff
/-- R116. -/
def outdoorHeater (s : State) : Except ErrKind Result := flag s 2 5 .boolOnOff
/-- R117. -/
def supplyHeater (s : State) : Except ErrKind Result := flag s 2 4 .boolOnOff
/-- R118. -/
def drainHeater (s : State) : Except ErrKind Result := flag s 2 3 .boolOnOff
/-- R119. -/
def timerMode (s : State) : Except ErrKind Result := flag s 2 2 .boolOnOff
/-- R120. -/
def filterMaintenance (s : State) : Except ErrKind Result := flag s 2 1 .boolOnOff
/-- R121. -/
def weeklyTimer (s : State) : Except ErrKind Result := flag s 2 0 .boolOnOff
/-- R122. -/
def roomTempControl (s : State) : Except ErrKind Result := flag s 3 7 .boolOnOff
/-- R123; 1 = master. -/
def masterSlave (s : State) : Except ErrKind Result := flag s 4 7 .boolOnOff
/-- R124. -/
def airQuality1 (s : State) : Except ErrKind Result := airQuality s 3
/-- R125. -/
def airQuality2 (s : State) : Except ErrKind Result := airQuality s 4

/-- R126: `((v & 0xFE) >> 1) - 64`, whole degrees (R137). -/
def outdoorTemp (s : State) : Except ErrKind Result := do
  let v ← memRead s 5 1
  return .value .celsius (lessOffset ((v &&& 0xFE) >>> 1))

/-- R127: `(((b[5] & 0x7F) << 6) | (b[6] >> 2)) - 64`, after the one two-byte read. -/
def supplyTemp (s : State) : Except ErrKind Result := do
  let _ ← memRead s 5 2
  return .value .celsius
    (lessOffset ((((s.byte 5).toNat &&& 0x7F) <<< 6) ||| ((s.byte 6).toNat >>> 2)))

/-- R128. -/
def indoorTemp : Except ErrKind Result := unsupported
/-- R129. -/
def exhaustTemp : Except ErrKind Result := unsupported
/-- R130. -/
def supplyFlow : Except ErrKind Result := unsupported
/-- R131. -/
def exhaustFlow : Except ErrKind Result := unsupported
/-- R132. -/
def supplyFanSpeed : Except ErrKind Result := unsupported
/-- R133. -/
def exhaustFanSpeed : Except ErrKind Result := unsupported

/-- R134: the body of OMDEC. -/
def operationMode (s : State) : Except ErrKind Result := readOperationMode s

end Sys2Proof.Machine
end

