-- ==== Sys2Proof/Machine/ChannelDispatcher.lean ====
section
/-! DEFINITION. The operation RES (43_channel_dispatcher.md): the dispatch by message type, the declared units of the
channels (30_encoding.md R74), and the meanings of the 26 RES rows. -/

namespace Sys2Proof.Machine

/-- R140, steps 1 to 3: read byte 0, decode the message type, and go on to the second level only for BASIC_STATUS
(R141, R142, R144). `selected` is what the channel's row yields there (steps 4 and 5); it is neither altered nor
hidden (R145), and no other decoder's outcome matters (R147). -/
def dispatch (s : State) (selected : Except ErrKind Result) : Except ErrKind Result := do
  let v0 ← memRead s 0 1
  let t ← decodeMessageType v0
  match t with
  | .basicStatus => selected
  | .remoteTransmissionRequest => return .undefined
  | .control => return .undefined
  | .extendedStatus => return .undefined

/-- R140 step 4, R143: no decoder belongs to an unrecognised channel code. -/
def unknownChannel : Except ErrKind Result := .ok .undefined

/-- The declared unit of a recognised channel code (30_encoding.md R74); `none` for codes 25 to 255. -/
def declaredUnit (chan : BitVec 8) : Option PhysUnit :=
  match chan.toNat with
  | 0 => some .boolOnOff
  | 1 => some .boolOpenClosed
  | 2 => some .boolOpenClosed
  | 3 => some .boolOpenClosed
  | 4 => some .boolOnOff
  | 5 => some .boolOnOff
  | 6 => some .boolOnOff
  | 7 => some .boolOnOff
  | 8 => some .boolOnOff
  | 9 => some .boolOnOff
  | 10 => some .boolOnOff
  | 11 => some .boolOnOff
  | 12 => some .boolOnOff
  | 13 => some .boolOnOff
  | 14 => some .percent
  | 15 => some .percent
  | 16 => some .celsius
  | 17 => some .celsius
  | 18 => some .celsius
  | 19 => some .celsius
  | 20 => some .m3PerH
  | 21 => some .m3PerH
  | 22 => some .hertz
  | 23 => some .hertz
  | 24 => some .enumOpMode
  | _ => none

/-- RES of its channel (R110, through R140). -/
def execResSafetyMode (s : State) : Host.Outcome State Fault Refusal :=
  .next (deliver (dispatch s (safetyMode s)) s)

/-- RES of its channel (R111, through R140). -/
def execResBypassOpened (s : State) : Host.Outcome State Fault Refusal :=
  .next (deliver (dispatch s (bypassOpened s)) s)

/-- RES of its channel (R112, through R140). -/
def execResSupplyFlapOpened (s : State) : Host.Outcome State Fault Refusal :=
  .next (deliver (dispatch s (supplyFlapOpened s)) s)

/-- RES of its channel (R113, through R140). -/
def execResExhaustFlapOpened (s : State) : Host.Outcome State Fault Refusal :=
  .next (deliver (dispatch s (exhaustFlapOpened s)) s)

/-- RES of its channel (R114, through R140). -/
def execResDefrostMode (s : State) : Host.Outcome State Fault Refusal :=
  .next (deliver (dispatch s (defrostMode s)) s)

/-- RES of its channel (R115, through R140). -/
def execResCoolingProtection (s : State) : Host.Outcome State Fault Refusal :=
  .next (deliver (dispatch s (coolingProtection s)) s)

/-- RES of its channel (R116, through R140). -/
def execResOutdoorHeater (s : State) : Host.Outcome State Fault Refusal :=
  .next (deliver (dispatch s (outdoorHeater s)) s)

/-- RES of its channel (R117, through R140). -/
def execResSupplyHeater (s : State) : Host.Outcome State Fault Refusal :=
  .next (deliver (dispatch s (supplyHeater s)) s)

/-- RES of its channel (R118, through R140). -/
def execResDrainHeater (s : State) : Host.Outcome State Fault Refusal :=
  .next (deliver (dispatch s (drainHeater s)) s)

/-- RES of its channel (R119, through R140). -/
def execResTimerMode (s : State) : Host.Outcome State Fault Refusal :=
  .next (deliver (dispatch s (timerMode s)) s)

/-- RES of its channel (R120, through R140). -/
def execResFilterMaintenance (s : State) : Host.Outcome State Fault Refusal :=
  .next (deliver (dispatch s (filterMaintenance s)) s)

/-- RES of its channel (R121, through R140). -/
def execResWeeklyTimer (s : State) : Host.Outcome State Fault Refusal :=
  .next (deliver (dispatch s (weeklyTimer s)) s)

/-- RES of its channel (R122, through R140). -/
def execResRoomTempControl (s : State) : Host.Outcome State Fault Refusal :=
  .next (deliver (dispatch s (roomTempControl s)) s)

/-- RES of its channel (R123, through R140). -/
def execResMasterSlave (s : State) : Host.Outcome State Fault Refusal :=
  .next (deliver (dispatch s (masterSlave s)) s)

/-- RES of its channel (R124, through R140). -/
def execResAirQuality1 (s : State) : Host.Outcome State Fault Refusal :=
  .next (deliver (dispatch s (airQuality1 s)) s)

/-- RES of its channel (R125, through R140). -/
def execResAirQuality2 (s : State) : Host.Outcome State Fault Refusal :=
  .next (deliver (dispatch s (airQuality2 s)) s)

/-- RES of its channel (R126, through R140). -/
def execResOutdoorTemp (s : State) : Host.Outcome State Fault Refusal :=
  .next (deliver (dispatch s (outdoorTemp s)) s)

/-- RES of its channel (R127, through R140). -/
def execResSupplyTemp (s : State) : Host.Outcome State Fault Refusal :=
  .next (deliver (dispatch s (supplyTemp s)) s)

/-- RES of its channel (R128, through R140). -/
def execResIndoorTemp (s : State) : Host.Outcome State Fault Refusal :=
  .next (deliver (dispatch s indoorTemp) s)

/-- RES of its channel (R129, through R140). -/
def execResExhaustTemp (s : State) : Host.Outcome State Fault Refusal :=
  .next (deliver (dispatch s exhaustTemp) s)

/-- RES of its channel (R130, through R140). -/
def execResSupplyFlow (s : State) : Host.Outcome State Fault Refusal :=
  .next (deliver (dispatch s supplyFlow) s)

/-- RES of its channel (R131, through R140). -/
def execResExhaustFlow (s : State) : Host.Outcome State Fault Refusal :=
  .next (deliver (dispatch s exhaustFlow) s)

/-- RES of its channel (R132, through R140). -/
def execResSupplyFanSpeed (s : State) : Host.Outcome State Fault Refusal :=
  .next (deliver (dispatch s supplyFanSpeed) s)

/-- RES of its channel (R133, through R140). -/
def execResExhaustFanSpeed (s : State) : Host.Outcome State Fault Refusal :=
  .next (deliver (dispatch s exhaustFanSpeed) s)

/-- RES of its channel (R134, through R140). -/
def execResOperationMode (s : State) : Host.Outcome State Fault Refusal :=
  .next (deliver (dispatch s (operationMode s)) s)

/-- RES.UNKNOWN: the same dispatch, whatever the code (R143). -/
def execResUnknown (_chan : BitVec 8) (s : State) : Host.Outcome State Fault Refusal :=
  .next (deliver (dispatch s unknownChannel) s)

end Sys2Proof.Machine
end

