-- ==== Sys2Proof/Machine/Illegal.lean ====
section
/-! DEFINITION. The meaning of a word that spells no operation (30_encoding.md R66, 60_exceptions.md R165). -/

namespace Sys2Proof.Machine

/-- ILLEGAL: ERROR(IllegalCommand), before anything of the telegram is looked at (R66, R165; log entry 7). -/
def execIllegal (_word : Command) (s : State) : Host.Outcome State Fault Refusal :=
  .next (raise .illegalCommand s)

end Sys2Proof.Machine
end

