-- ==== Sys2Proof/Machine/Dispatch.lean ====
section
/-! DEFINITION. One arm for each constructor of Instr, each a call of its meaning (30_encoding.md R62). -/

namespace Sys2Proof.Machine

def exec (i : Instr) (s : State) : Host.Outcome State Fault Refusal :=
  match i with
  | .bit boff bit => Sys2Proof.Machine.execBit boff bit s
  | .msk boff mask => Sys2Proof.Machine.execMsk boff mask s
  | .ext boff lsb width => Sys2Proof.Machine.execExt boff lsb width s
  | .ext2 boff lsb width => Sys2Proof.Machine.execExt2 boff lsb width s
  | .mtdec => Sys2Proof.Machine.execMtdec s
  | .omdec => Sys2Proof.Machine.execOmdec s
  | .resSafetyMode => Sys2Proof.Machine.execResSafetyMode s
  | .resBypassOpened => Sys2Proof.Machine.execResBypassOpened s
  | .resSupplyFlapOpened => Sys2Proof.Machine.execResSupplyFlapOpened s
  | .resExhaustFlapOpened => Sys2Proof.Machine.execResExhaustFlapOpened s
  | .resDefrostMode => Sys2Proof.Machine.execResDefrostMode s
  | .resCoolingProtection => Sys2Proof.Machine.execResCoolingProtection s
  | .resOutdoorHeater => Sys2Proof.Machine.execResOutdoorHeater s
  | .resSupplyHeater => Sys2Proof.Machine.execResSupplyHeater s
  | .resDrainHeater => Sys2Proof.Machine.execResDrainHeater s
  | .resTimerMode => Sys2Proof.Machine.execResTimerMode s
  | .resFilterMaintenance => Sys2Proof.Machine.execResFilterMaintenance s
  | .resWeeklyTimer => Sys2Proof.Machine.execResWeeklyTimer s
  | .resRoomTempControl => Sys2Proof.Machine.execResRoomTempControl s
  | .resMasterSlave => Sys2Proof.Machine.execResMasterSlave s
  | .resAirQuality1 => Sys2Proof.Machine.execResAirQuality1 s
  | .resAirQuality2 => Sys2Proof.Machine.execResAirQuality2 s
  | .resOutdoorTemp => Sys2Proof.Machine.execResOutdoorTemp s
  | .resSupplyTemp => Sys2Proof.Machine.execResSupplyTemp s
  | .resIndoorTemp => Sys2Proof.Machine.execResIndoorTemp s
  | .resExhaustTemp => Sys2Proof.Machine.execResExhaustTemp s
  | .resSupplyFlow => Sys2Proof.Machine.execResSupplyFlow s
  | .resExhaustFlow => Sys2Proof.Machine.execResExhaustFlow s
  | .resSupplyFanSpeed => Sys2Proof.Machine.execResSupplyFanSpeed s
  | .resExhaustFanSpeed => Sys2Proof.Machine.execResExhaustFanSpeed s
  | .resOperationMode => Sys2Proof.Machine.execResOperationMode s
  | .resUnknown chan => Sys2Proof.Machine.execResUnknown chan s
  | .illegal word => Sys2Proof.Machine.execIllegal word s

end Sys2Proof.Machine
end

