-- ==== Sys2Proof/Machine/Step.lean ====
section
/-! DEFINITION. One step: the evaluation of the request on the ports into its response (00_scope.md R7, 30_encoding.md
R62). -/

namespace Sys2Proof.Machine

/-- R62: the command word is decoded, and its row evaluated against the telegram. -/
def step (s : State) : Host.Outcome State Fault Refusal := exec (decode (fetch s)) s

/-- The state with the command word `w` on the `cmd` port, where `step` takes it from: the host presents one command
a request (10_state.md R22, R27; log entries 1 and 12). A command has 16 bits, so `nbits` plays no part. -/
def State.withFetchWord (s : State) (_nbits w : Nat) : State := { s with cmd := BitVec.ofNat 16 w }

end Sys2Proof.Machine
end

