-- ==== Sys2Proof/Machine/Assembler.lean ====
section
/-! DEFINITION. The assembler of 30_encoding.md R77 and its pseudo-instructions (R78), from lines with numeric
operands to command words. AssemblerText.lean reads the written lines. -/

namespace Sys2Proof.Machine

/-- One line of the syntax of R77 and R78, its operands as written. -/
inductive AsmLine where
  | bit (boff bit : Nat)
  | msk (boff mask : Nat)
  | ext (boff lsb width : Nat)
  | ext2 (boff lsb width : Nat)
  | mtdec
  | omdec
  | res (chan : Nat)
  /-- `.word`, for a word that is the encoding of no other line. -/
  | word (w : Command)
  /-- `BYTE boff`. -/
  | byte (boff : Nat)
  /-- `LOW7 boff`. -/
  | low7 (boff : Nat)
  /-- `LONIB boff`. -/
  | lonib (boff : Nat)
  /-- `HINIB boff`. -/
  | hinib (boff : Nat)
  /-- `HALF boff`. -/
  | half (boff : Nat)
  deriving DecidableEq, Repr

/-- R78: each pseudo-instruction is an abbreviation of one command; other lines stand for themselves. -/
def AsmLine.expand : AsmLine → AsmLine
  | .byte boff => .msk boff 0xFF
  | .low7 boff => .msk boff 0x7F
  | .lonib boff => .msk boff 0x0F
  | .hinib boff => .ext boff 4 4
  | .half boff => .ext2 boff 0 16
  | .bit boff k => .bit boff k
  | .msk boff m => .msk boff m
  | .ext boff lsb width => .ext boff lsb width
  | .ext2 boff lsb width => .ext2 boff lsb width
  | .mtdec => .mtdec
  | .omdec => .omdec
  | .res chan => .res chan
  | .word v => .word v

/-- The word of a line by the sums of R77; `none` is an assembly error: an operand outside its field's range, or a
`.word` for a word that a line spells. -/
def assemble (l : AsmLine) : Option Command :=
  match l.expand with
  | .bit boff bit =>
    if boff ≤ 15 ∧ bit ≤ 7 then some (BitVec.ofNat 16 (0 * 2 ^ 13 + boff * 2 ^ 9 + bit)) else none
  | .msk boff mask =>
    if boff ≤ 15 ∧ mask ≤ 255 then some (BitVec.ofNat 16 (1 * 2 ^ 13 + boff * 2 ^ 9 + mask)) else none
  | .ext boff lsb width =>
    if boff ≤ 15 ∧ lsb ≤ 15 ∧ width ≤ 31 then
      some (BitVec.ofNat 16 (2 * 2 ^ 13 + boff * 2 ^ 9 + lsb * 2 ^ 5 + width))
    else none
  | .ext2 boff lsb width =>
    if boff ≤ 15 ∧ lsb ≤ 15 ∧ width ≤ 31 then
      some (BitVec.ofNat 16 (3 * 2 ^ 13 + boff * 2 ^ 9 + lsb * 2 ^ 5 + width))
    else none
  | .mtdec => some 0x8000#16
  | .omdec => some 0xA000#16
  | .res chan => if chan ≤ 255 then some (BitVec.ofNat 16 (0xC000 + chan)) else none
  | .word w => if (illegalCase w).isSome then some w else none
  | .byte _ | .low7 _ | .lonib _ | .hinib _ | .half _ => none

end Sys2Proof.Machine
end

