-- ==== Sys2Proof/Machine/AssemblerText.lean ====
section
/-! DEFINITION. The written form of the assembler's lines (30_encoding.md R77, R78): mnemonics, numbers in three bases,
channel names (R74). A mnemonic is followed by spaces, operands are separated by commas, spaces around an operand do
not count (log entry 14, DESIGN CHOICE: the spec shows one spelling and no grammar). -/

namespace Sys2Proof.Machine

/-- A digit of a base. -/
def digitOf (base : Nat) (c : Char) : Option Nat :=
  let d :=
    if '0'.toNat ≤ c.toNat ∧ c.toNat ≤ '9'.toNat then c.toNat - '0'.toNat
    else if 'a'.toNat ≤ c.toNat ∧ c.toNat ≤ 'f'.toNat then c.toNat - 'a'.toNat + 10
    else if 'A'.toNat ≤ c.toNat ∧ c.toNat ≤ 'F'.toNat then c.toNat - 'A'.toNat + 10
    else base
  if d < base then some d else none

/-- The number that digits of a base spell after a number already read. -/
def digitsFrom (base : Nat) : Nat → List Char → Option Nat
  | n, [] => some n
  | n, c :: cs =>
    match digitOf base c with
    | some d => digitsFrom base (n * base + d) cs
    | none => none

/-- R77: "operands are decimal, or hexadecimal with `0x`, or binary with `0b`". -/
def numberOf : List Char → Option Nat
  | [] => none
  | '0' :: 'x' :: c :: cs => digitsFrom 16 0 (c :: cs)
  | '0' :: 'b' :: c :: cs => digitsFrom 2 0 (c :: cs)
  | cs => digitsFrom 10 0 cs

/-- The channel mnemonics by code (R74). -/
def channelMnemonics : List String := [
  "SAFETY_MODE", "BYPASS_OPENED", "SUPPLY_FLAP_OPENED", "EXHAUST_FLAP_OPENED", "DEFROST_MODE",
  "COOLING_PROTECTION", "OUTDOOR_HEATER", "SUPPLY_HEATER", "DRAIN_HEATER", "TIMER_MODE",
  "FILTER_MAINTENANCE", "WEEKLY_TIMER", "ROOM_TEMP_CONTROL", "MASTER_SLAVE", "AIR_QUALITY_1",
  "AIR_QUALITY_2", "OUTDOOR_TEMP", "SUPPLY_TEMP", "INDOOR_TEMP", "EXHAUST_TEMP", "SUPPLY_FLOW",
  "EXHAUST_FLOW", "SUPPLY_FAN_SPEED", "EXHAUST_FAN_SPEED", "OPERATION_MODE"]

/-- R77: "a channel is written by its mnemonic of rule R74 or by its number". -/
def channelOf (cs : List Char) : Option Nat :=
  match numberOf cs with
  | some n => some n
  | none => channelMnemonics.findIdx? fun m => m == String.ofList cs

/-- A text without the spaces at its two ends. -/
def trimSpaces (cs : List Char) : List Char :=
  ((cs.dropWhile (· == ' ')).reverse.dropWhile (· == ' ')).reverse

/-- The pieces of a text between commas. -/
def splitCommas : List Char → List (List Char)
  | [] => [[]]
  | c :: cs =>
    if c = ',' then [] :: splitCommas cs
    else
      match splitCommas cs with
      | [] => [[c]]
      | f :: fs => (c :: f) :: fs

/-- The operands of a line, as text. -/
def operandTexts (cs : List Char) : List (List Char) :=
  match trimSpaces cs with
  | [] => []
  | c :: rest => (splitCommas (c :: rest)).map trimSpaces

/-- R77: an illegal word "is written `.word 0x....` with its four hexadecimal digits". -/
def wordOf : List Char → Option Command
  | ['0', 'x', a, b, c, d] => (digitsFrom 16 0 [a, b, c, d]).map (BitVec.ofNat 16)
  | _ => none

/-- A line of R77 or R78 from its mnemonic and its operands; `none` where it is no such line. -/
def lineOf (mnemonic : String) (operands : List (List Char)) : Option AsmLine :=
  match mnemonic, operands with
  | "BIT", [a, b] => do return .bit (← numberOf a) (← numberOf b)
  | "MSK", [a, b] => do return .msk (← numberOf a) (← numberOf b)
  | "EXT", [a, b, c] => do return .ext (← numberOf a) (← numberOf b) (← numberOf c)
  | "EXT2", [a, b, c] => do return .ext2 (← numberOf a) (← numberOf b) (← numberOf c)
  | "MTDEC", [] => some .mtdec
  | "OMDEC", [] => some .omdec
  | "RES", [a] => (channelOf a).map .res
  | ".word", [a] => (wordOf a).map .word
  | "BYTE", [a] => (numberOf a).map .byte
  | "LOW7", [a] => (numberOf a).map .low7
  | "LONIB", [a] => (numberOf a).map .lonib
  | "HINIB", [a] => (numberOf a).map .hinib
  | "HALF", [a] => (numberOf a).map .half
  | _, _ => none

/-- A written line. -/
def parseLine (line : String) : Option AsmLine :=
  let cs := trimSpaces line.toList
  lineOf (String.ofList (cs.takeWhile (· != ' '))) (operandTexts (cs.dropWhile (· != ' ')))

/-- The command word of a written line; `none` is an assembly error. -/
def assembleText (line : String) : Option Command := (parseLine line).bind assemble

end Sys2Proof.Machine
end

