-- ==== Sys2Proof/Machine/Flags.lean ====
section
/-! DEFINITION. The block has no flag and no condition code: "the outcome of a request is carried in the tag field of
that request's response and nowhere else" (10_state.md R23). This file reads the outcome back out of the response
word, as a consumer does (30_encoding.md R70 to R73, 60_exceptions.md R160). -/

namespace Sys2Proof.Machine

/-- `tag`, bits 31:30. -/
def tagField (r : Response) : BitVec 2 := r.extractLsb 31 30
/-- `err`, bits 29:28. -/
def errField (r : Response) : BitVec 2 := r.extractLsb 29 28
/-- `unit`, bits 27:24. -/
def unitField (r : Response) : BitVec 4 := r.extractLsb 27 24
/-- Bits 23:20, always 0. -/
def zeroField (r : Response) : BitVec 4 := r.extractLsb 23 20
/-- `val`, bits 19:0. -/
def valField (r : Response) : BitVec 20 := r.extractLsb 19 0

/-- The tag a consumer reads (30_encoding.md R71). -/
def readTag (r : Response) : Tag :=
  match (tagField r).toNat with
  | 0 => .value
  | 1 => .undefined
  | 2 => .unsupported
  | _ => .error

/-- The value a consumer reads, whatever the unit: `sext(rsp[19:0])` (30_encoding.md R70). -/
def readValue (r : Response) : Int := (valField r).toInt

/-- The unit of a code (30_encoding.md R73). -/
def unitOfCode (c : BitVec 4) : Option PhysUnit :=
  match c.toNat with
  | 0 => some .raw
  | 1 => some .boolOnOff
  | 2 => some .boolOpenClosed
  | 3 => some .percent
  | 4 => some .celsius
  | 5 => some .m3PerH
  | 6 => some .hertz
  | 7 => some .enumMsgType
  | 8 => some .enumOpMode
  | _ => none

/-- The error kind of a code (30_encoding.md R72). -/
def errKindOfCode (c : BitVec 2) : Option ErrKind :=
  match c.toNat with
  | 1 => some .invalidEnumCode
  | 2 => some .bufferBounds
  | 3 => some .illegalCommand
  | _ => none

/-- The result a response word stands for; `none` for the patterns that 60_exceptions.md R160 and
93_implementation_defined.md U15 say are never produced. -/
def unpack (r : Response) : Option Result :=
  if zeroField r ≠ 0 then none
  else
    match readTag r with
    | .value =>
      if errField r = 0 then (unitOfCode (unitField r)).map fun u => .value u (readValue r) else none
    | .undefined => if r = Result.undefined.pack then some .undefined else none
    | .unsupported => if r = Result.unsupported.pack then some .unsupported else none
    | .error =>
      if unitField r = 0 ∧ valField r = 0 then (errKindOfCode (errField r)).map .error else none

end Sys2Proof.Machine
end

