-- ==== Sys2Proof/Machine/PortFunction.lean ====
section
/-! DEFINITION. The block as hardware: `rsp` as a function `Exec(cmd, tg_len, tg_data)` of the three input ports
(10_state.md R27, 30_encoding.md R62), in the shape that 43_channel_dispatcher.md R147 describes: every field decoder
is evaluated at once, one multiplexer picks by channel code and a second one by message-type code. Written apart from
the decoder, the memory and the meanings of the machine, on the bits of the ports; an obligation states that the two
agree. -/

namespace Sys2Proof.Machine

/-- `min(tg_len, 16)` on wires: bit 4 set means 16 (20_memory.md R41). -/
def wireLen (tgLen : LengthInput) : Nat := if tgLen.getLsbD 4 then 16 else tgLen.toNat

/-- `tg_data[8*i+7 : 8*i]` as a number (10_state.md R28). -/
def wireByte (d : PortData) (i : Nat) : Nat := d.toNat / 2 ^ (8 * i) % 256

/-- A one-byte read with its bounds check (20_memory.md R43). -/
def wireRead (len : Nat) (d : PortData) (a : Nat) (f : Nat → Result) : Result :=
  if a < len then f (wireByte d a) else .error .bufferBounds

/-- A two-byte read with its bounds check, high byte first (20_memory.md R43, R44). -/
def wireReadPair (len : Nat) (d : PortData) (a : Nat) (f : Nat → Result) : Result :=
  if a + 1 < len then f (wireByte d a * 256 + wireByte d (a + 1)) else .error .bufferBounds

/-- The operation-mode table as wires: ordinal = code for 0 to 4, code - 6 for 11 to 14, else invalid
(30_encoding.md R76). -/
def wireOperationMode (b0 : Nat) : Result :=
  let c := b0 % 16
  if c ≤ 4 then .value .enumOpMode c
  else if 11 ≤ c ∧ c ≤ 14 then .value .enumOpMode ((c : Int) - 6)
  else .error .invalidEnumCode

/-- The positions of the 14 flags in channel order: byte, bit, unit (20_memory.md R48, 30_encoding.md R74). -/
def flagPositions : List (Nat × Nat × PhysUnit) :=
  [(1, 3, .boolOnOff), (1, 2, .boolOpenClosed), (1, 1, .boolOpenClosed), (1, 0, .boolOpenClosed),
   (2, 7, .boolOnOff), (2, 6, .boolOnOff), (2, 5, .boolOnOff), (2, 4, .boolOnOff), (2, 3, .boolOnOff),
   (2, 2, .boolOnOff), (2, 1, .boolOnOff), (2, 0, .boolOnOff), (3, 7, .boolOnOff), (4, 7, .boolOnOff)]

/-- The outputs of all 25 field decoders, evaluated at once (R147). -/
def decoderOutputs (len : Nat) (d : PortData) : List Result :=
  (flagPositions.map fun p => wireRead len d p.1 fun v => .value p.2.2 ((v / 2 ^ p.2.1 % 2 : Nat) : Int)) ++
    [wireRead len d 3 fun v => .value .percent ((v % 128 : Nat) : Int),
     wireRead len d 4 fun v => .value .percent ((v % 128 : Nat) : Int),
     wireRead len d 5 fun v => .value .celsius (((v / 2 : Nat) : Int) - 64),
     wireReadPair len d 5 fun w => .value .celsius (((w / 4 % 8192 : Nat) : Int) - 64)] ++
    List.replicate 6 .unsupported ++
    [wireRead len d 0 wireOperationMode]

/-- The two multiplexers of RES (R140, R147): by message-type code, and by channel code. -/
def wireResolve (len : Nat) (d : PortData) (chan : Nat) : Result :=
  wireRead len d 0 fun b0 =>
    if 4 ≤ b0 / 32 then .error .invalidEnumCode
    else if b0 / 32 ≠ 2 then .undefined
    else (decoderOutputs len d)[chan]?.getD .undefined

/-- `Exec` of R62 on the bits of the three ports. -/
def portResult (cmd : Command) (tgLen : LengthInput) (d : PortData) : Result :=
  let len := wireLen tgLen
  let c := cmd.toNat
  let boff := c / 512 % 16
  let lsb := c / 32 % 16
  let width := c % 32
  match c / 8192 with
  | 0 => if c / 8 % 64 = 0 then wireRead len d boff fun v => .value .raw ((v / 2 ^ (c % 8) % 2 : Nat) : Int)
         else .error .illegalCommand
  | 1 => if c / 256 % 2 = 0 then wireRead len d boff fun v => .value .raw ((v &&& (c % 256) : Nat) : Int)
         else .error .illegalCommand
  | 2 => wireRead len d boff fun v => .value .raw ((v / 2 ^ lsb % 2 ^ width : Nat) : Int)
  | 3 => wireReadPair len d boff fun w => .value .raw ((w / 2 ^ lsb % 2 ^ width : Nat) : Int)
  | 4 => if c % 8192 = 0 then
           wireRead len d 0 fun b0 =>
             if b0 / 32 < 4 then .value .enumMsgType ((b0 / 32 : Nat) : Int) else .error .invalidEnumCode
         else .error .illegalCommand
  | 5 => if c % 8192 = 0 then wireRead len d 0 wireOperationMode else .error .illegalCommand
  | 6 => if c / 256 % 32 = 0 then wireResolve len d (c % 256) else .error .illegalCommand
  | _ => .error .illegalCommand

/-- `rsp` as the function of the three inputs (R27, R62, R70). -/
def portFunction (cmd : Command) (tgLen : LengthInput) (d : PortData) : Response :=
  (portResult cmd tgLen d).pack

end Sys2Proof.Machine
end

