-- ==== Sys2Proof/Machine/Session.lean ====
section
/-! DEFINITION. The host's side of a session (70_reset_and_hazards.md R192, 10_state.md R22): requests presented one
after another, each an atomic triple of inputs (R196), and the list of responses. A "program" of 95_test_vectors.md is
such a list. -/

namespace Sys2Proof.Machine

/-- One request: the three inputs, presented together and held (R192, R195). -/
structure Request where
  cmd : Command
  tgLen : LengthInput
  tgData : PortData
  deriving DecidableEq, Repr

/-- The host drives the three inputs (R192). -/
def present (r : Request) (s : State) : State :=
  { s with cmd := r.cmd, tgLen := r.tgLen, tg := Memory.ofPort r.tgData }

/-- The ports seen as a request. -/
def State.request (s : State) : Request := { cmd := s.cmd, tgLen := s.tgLen, tgData := Memory.toPort s.tg }

/-- Serve requests in order, taking one response for each; a step that stopped would end the session. -/
def serve : List Request → State → List Response
  | [], _ => []
  | r :: rs, s =>
    match step (present r s) with
    | .next t => t.rsp :: serve rs t
    | .fault _ => []
    | .refused _ => []

end Sys2Proof.Machine
end

