-- ==== Sys2Proof/Safety.lean ====
section
/-! DEFINITION. The terms the claims use: the message type of a telegram by the ranges of byte 0, what a consumer reads
from an outcome, the responses that the block can produce, and the invariant of a run. A run is safe when every step
answers with a producible response and leaves the inputs alone. -/

namespace Sys2Proof.Machine

/-- BASIC_STATUS: byte 0 is there and is 0x40 to 0x5F (43_channel_dispatcher.md R141). -/
abbrev basicStatus (s : State) : Prop :=
  0 < s.len ∧ 0x40 ≤ (s.byte 0).toNat ∧ (s.byte 0).toNat ≤ 0x5F

/-- One of the three other valid message types: byte 0 is 0x00 to 0x3F or 0x60 to 0x7F (R142). -/
abbrev otherMessageType (s : State) : Prop :=
  0 < s.len ∧ ((s.byte 0).toNat ≤ 0x3F ∨ (0x60 ≤ (s.byte 0).toNat ∧ (s.byte 0).toNat ≤ 0x7F))

/-- No message type: byte 0 is 0x80 to 0xFF (R144). -/
abbrev invalidMessageType (s : State) : Prop := 0 < s.len ∧ 0x80 ≤ (s.byte 0).toNat

/-- The low nibble of byte 0 is one of the codes 5 to 10 and 15 that stand for no operation mode
(60_exceptions.md R161). -/
abbrev invalidModeNibble (s : State) : Prop :=
  (s.byte 0).toNat % 16 ∈ [5, 6, 7, 8, 9, 10, 15]

/-- A row of RES (spec/opcode_table.json, the rows RES.<name> and RES.UNKNOWN). -/
abbrev isRes (i : Instr) : Prop := i.channelCode ≠ none

/-- One of the four generic reads, on its byte offset (40_bitfield_reader.md R96). -/
def genericOffset : Instr → Option Nat
  | .bit boff _ => some boff.toNat
  | .msk boff _ => some boff.toNat
  | .ext boff _ _ => some boff.toNat
  | .ext2 boff _ _ => some boff.toNat
  | _ => none

/-- A bit of a byte as the number that stands for it (40_bitfield_reader.md R90). -/
def bitValue (b : Byte) (k : Nat) : Int := if b.getLsbD k then 1 else 0

/-- The result that a consumer reads from the outcome of a step. -/
def resultOf : Host.Outcome State Fault Refusal → Option Result
  | .next t => unpack t.rsp
  | .fault _ => none
  | .refused _ => none

/-- The value that a consumer reads from the outcome of a step; `none` when the tag is not VALUE. -/
def valueOf (o : Host.Outcome State Fault Refusal) : Option Int :=
  match resultOf o with
  | some (.value _ v) => some v
  | _ => none

/-- The results that are reachable, by unit (10_state.md R34). -/
def Result.reachable : Result → Bool
  | .value .raw v => decide (0 ≤ v ∧ v ≤ 65535)
  | .value .boolOnOff v => decide (0 ≤ v ∧ v ≤ 1)
  | .value .boolOpenClosed v => decide (0 ≤ v ∧ v ≤ 1)
  | .value .percent v => decide (0 ≤ v ∧ v ≤ 127)
  | .value .celsius v => decide (-64 ≤ v ∧ v ≤ 8127)
  | .value .m3PerH _ => false
  | .value .hertz _ => false
  | .value .enumMsgType v => decide (0 ≤ v ∧ v ≤ 3)
  | .value .enumOpMode v => decide (0 ≤ v ∧ v ≤ 8)
  | .undefined => true
  | .unsupported => true
  | .error _ => true

/-- The response words that the block produces: no pattern of 93_implementation_defined.md U15, and a value in the
range of its unit. -/
def producible (r : Response) : Bool :=
  match unpack r with
  | some x => x.reachable
  | none => false

/-- The invariant of a run: the telegram is in its canonical form and `rsp` holds a producible response. -/
abbrev State.inv (s : State) : Prop := Memory.wf s.tg = true ∧ producible s.rsp = true

/-- Two telegrams that the block cannot tell apart: the same effective length and the same bytes below it
(10_state.md R29). -/
abbrev sameTelegram (s t : State) : Prop := s.len = t.len ∧ ∀ a, a < s.len → s.byte a = t.byte a

end Sys2Proof.Machine
end

