-- ==== Sys2Proof/Certificates/Slice0/Obligations.lean ====
section
/-! DEFINITION. The statements for the provers. Each is a property of the machine for all states, commands and
telegrams; OBLIGATIONS.json lists them with the rules they formalise. -/

section
open Sys2Proof Sys2Proof.Machine

/-- Decoding the encoding of a well-formed instruction gives it back. Derived from R60, R61, R63, R64, R66. -/
def Obligations.DecodeInvertsEncode : Prop :=
  ∀ i : Instr, i.wellFormed = true → decode (encode i) = i

/-- Every 16-bit word is the encoding of exactly the instruction it decodes to. Derived from R9, R60, R61, R65, R66.
-/
def Obligations.EncodeInvertsDecode : Prop :=
  ∀ w : Command, (decode w).wellFormed = true ∧ encode (decode w) = w

/-- The first row of the opcode table that a word selects is the row it decodes to. Derived from R64. -/
def Obligations.FirstMatchingRowIsTheDecodedRow : Prop :=
  opcodeTable.map OpcodeRow.order = List.range' 1 33 ∧
  (∀ w : Command, (firstRow w).map OpcodeRow.order = some (decode w).tableOrder) ∧
  (∀ w : Command, ∀ p ∈ opcodeTable, ∀ q ∈ opcodeTable, p.order < q.order →
    p.selects w = true → q.selects w = true →
    q.order = 33 ∨ (q.order = 32 ∧ 7 ≤ p.order ∧ p.order ≤ 31))

/-- ERROR(IllegalCommand) is the response exactly for the words of R66. Formalises R66. -/
def Obligations.IllegalWordsAndOnlyTheseAnswerIllegalCommand : Prop :=
  ∀ s : State,
    let op := s.cmd.extractLsb' 13 3
    let noOperation := op = 7 ∨ (op = 0 ∧ s.cmd.extractLsb' 3 6 ≠ 0) ∨ (op = 1 ∧ s.cmd.extractLsb' 8 1 ≠ 0) ∨
      ((op = 4 ∨ op = 5) ∧ s.cmd.extractLsb' 0 13 ≠ 0) ∨ (op = 6 ∧ s.cmd.extractLsb' 8 5 ≠ 0)
    (noOperation → step s = .next { s with rsp := (Result.error .illegalCommand).pack }) ∧
      (¬ noOperation → ∀ t, step s = .next t → t.rsp ≠ (Result.error .illegalCommand).pack)

/-- The row ILLEGAL completes with ERROR(IllegalCommand) on every telegram. Derived from R66, R70, R165. -/
def Obligations.IllegalAnswersIllegalCommandOnEveryTelegram : Prop :=
  ∀ (w : Command) (s : State), exec (.illegal w) s = .next { s with rsp := 0xF0000000#32 }

/-- Words written out from the encodings decode to the instructions they stand for. Derived from R61, R63, R74. -/
def Obligations.SpecWordsDecodeToTheirInstructions : Prop :=
  decode 0b0000001000000000#16 = .bit 1 0 ∧ decode 0b0010011001111111#16 = .msk 3 0x7F ∧
  decode 0b0100101000100111#16 = .ext 5 1 7 ∧ decode 0b0110101001001101#16 = .ext2 5 2 13 ∧
  decode 0b1000000000000000#16 = .mtdec ∧ decode 0b1010000000000000#16 = .omdec ∧
  decode 0b1100000000000010#16 = .resSupplyFlapOpened ∧ decode 0b1100000000011000#16 = .resOperationMode ∧
  decode 0b1100000000011001#16 = .resUnknown 25 ∧ decode 0b1110000100100011#16 = .illegal 0xE123

/-- Each assembler line in range gives the word of R77, which decodes to the command with those operands. Derived
from R77, R65. -/
def Obligations.AssemblerLinesSpellTheirCommands : Prop :=
  (∀ boff bit : Nat, boff ≤ 15 → bit ≤ 7 →
      assemble (.bit boff bit) = some (BitVec.ofNat 16 ((0 <<< 13) + (boff <<< 9) + bit)) ∧
      (assemble (.bit boff bit)).map decode = some (.bit (BitVec.ofNat 4 boff) (BitVec.ofNat 3 bit))) ∧
  (∀ boff mask : Nat, boff ≤ 15 → mask ≤ 255 →
      assemble (.msk boff mask) = some (BitVec.ofNat 16 ((1 <<< 13) + (boff <<< 9) + mask)) ∧
      (assemble (.msk boff mask)).map decode = some (.msk (BitVec.ofNat 4 boff) (BitVec.ofNat 8 mask))) ∧
  (∀ boff lsb width : Nat, boff ≤ 15 → lsb ≤ 15 → width ≤ 31 →
      assemble (.ext boff lsb width) =
        some (BitVec.ofNat 16 ((2 <<< 13) + (boff <<< 9) + (lsb <<< 5) + width)) ∧
      (assemble (.ext boff lsb width)).map decode =
        some (.ext (BitVec.ofNat 4 boff) (BitVec.ofNat 4 lsb) (BitVec.ofNat 5 width)) ∧
      assemble (.ext2 boff lsb width) =
        some (BitVec.ofNat 16 ((3 <<< 13) + (boff <<< 9) + (lsb <<< 5) + width)) ∧
      (assemble (.ext2 boff lsb width)).map decode =
        some (.ext2 (BitVec.ofNat 4 boff) (BitVec.ofNat 4 lsb) (BitVec.ofNat 5 width))) ∧
  (assemble .mtdec).map decode = some .mtdec ∧ (assemble .omdec).map decode = some .omdec ∧
  (∀ chan : Nat, chan ≤ 255 →
      assemble (.res chan) = some (BitVec.ofNat 16 (0xC000 + chan)) ∧
      (assemble (.res chan)).map (fun w => (decode w).channelCode) = some (some (BitVec.ofNat 8 chan))) ∧
  (∀ boff bit : Nat, 15 < boff ∨ 7 < bit → assemble (.bit boff bit) = none) ∧
  (∀ boff mask : Nat, 15 < boff ∨ 255 < mask → assemble (.msk boff mask) = none) ∧
  (∀ boff lsb width : Nat, 15 < boff ∨ 15 < lsb ∨ 31 < width →
      assemble (.ext boff lsb width) = none ∧ assemble (.ext2 boff lsb width) = none) ∧
  (∀ chan : Nat, 255 < chan → assemble (.res chan) = none) ∧
  (∀ w : Command, (decode w = .illegal w → assemble (.word w) = some w) ∧
      (decode w ≠ .illegal w → assemble (.word w) = none))

/-- BYTE, LOW7, LONIB, HINIB and HALF read the whole byte, its parts, and the big-endian pair. Derived from R78,
R42, R44. -/
def Obligations.PseudoInstructionsReadWhatTheySay : Prop :=
  ∀ (s : State) (boff : Nat),
    let b := (s.byte boff).toNat
    let run := fun l => (assemble l).map fun w => valueOf (step { s with cmd := w })
    (boff < s.len → run (.byte boff) = some (some (b : Int)) ∧ run (.low7 boff) = some (some (b % 128 : Int)) ∧
      run (.lonib boff) = some (some (b % 16 : Int)) ∧ run (.hinib boff) = some (some (b / 16 : Int))) ∧
    (boff + 1 < s.len →
      run (.half boff) = some (some ((b : Int) * 256 + ((s.byte (boff + 1)).toNat : Int))))

/-- A step is exec of the instruction that the command word decodes to. Derived from R62, R22, R27. -/
def Obligations.StepRunsTheDecodedCommand : Prop :=
  (∀ (s : State) (i : Instr), i.wellFormed = true → decode s.cmd = i → step s = exec i s) ∧
  (∀ (s : State) (i : Instr), i.wellFormed = true →
    step (s.withFetchWord 16 (encode i).toNat) = exec i { s with cmd := encode i })

/-- BIT boff, bit: the addressed bit, or BufferBounds, or IllegalCommand. Formalises R90. -/
def Obligations.BitReadsOneBit : Prop :=
  ∀ s : State,
    (∀ (boff : BitVec 4) (bit : BitVec 3),
      (boff.toNat < s.len → exec (.bit boff bit) s =
        .next { s with rsp := (Result.value .raw (if (s.byte boff.toNat).getLsbD bit.toNat then 1 else 0)).pack }) ∧
      (s.len ≤ boff.toNat → exec (.bit boff bit) s = .next { s with rsp :=
        (Result.error .bufferBounds).pack }) ∧
      (encode (.bit boff bit)).toNat = (boff.toNat <<< 9) ||| bit.toNat) ∧
    (s.cmd.extractLsb' 13 3 = 0 →
      (s.cmd.extractLsb' 3 6 = 0 → decode s.cmd = .bit (s.cmd.extractLsb' 9 4) (s.cmd.extractLsb' 0 3)) ∧
      (s.cmd.extractLsb' 3 6 ≠ 0 → step s = .next { s with rsp := (Result.error .illegalCommand).pack }))

/-- MSK boff, mask: the byte ANDed with the mask, not shifted. Formalises R91. -/
def Obligations.MskKeepsTheSelectedBitsInPlace : Prop :=
  ∀ s : State,
    (∀ (boff : BitVec 4) (mask : BitVec 8),
      (boff.toNat < s.len → exec (.msk boff mask) s =
        .next { s with rsp := (Result.value .raw (((s.byte boff.toNat &&& mask).toNat : Int))).pack }) ∧
      (s.len ≤ boff.toNat → exec (.msk boff mask) s = .next { s with rsp :=
        (Result.error .bufferBounds).pack }) ∧
      (encode (.msk boff mask)).toNat = 0x2000 ||| (boff.toNat <<< 9) ||| mask.toNat) ∧
    (s.cmd.extractLsb' 13 3 = 1 →
      (s.cmd.extractLsb' 8 1 = 0 → decode s.cmd = .msk (s.cmd.extractLsb' 9 4) (s.cmd.extractLsb' 0 8)) ∧
      (s.cmd.extractLsb' 8 1 ≠ 0 → step s = .next { s with rsp := (Result.error .illegalCommand).pack }))

/-- EXT boff, lsb, width: floor(byte / 2^lsb) mod 2^width, for every lsb and width. Formalises R92. -/
def Obligations.ExtShiftsABitRangeOfOneByteDown : Prop :=
  ∀ s : State,
    (∀ (boff lsb : BitVec 4) (width : BitVec 5),
      (boff.toNat < s.len → exec (.ext boff lsb width) s =
        .next { s with rsp := (Result.value .raw (((s.byte boff.toNat).toNat / 2 ^ lsb.toNat % 2 ^ width.toNat : Nat))).pack }) ∧
      (s.len ≤ boff.toNat → exec (.ext boff lsb width) s = .next { s with rsp :=
        (Result.error .bufferBounds).pack }) ∧
      (encode (.ext boff lsb width)).toNat =
        0x4000 ||| (boff.toNat <<< 9) ||| (lsb.toNat <<< 5) ||| width.toNat ∧
      (boff.toNat < s.len → lsb.toNat + width.toNat ≤ 8 →
        valueOf (exec (.ext boff lsb width) s) =
          (valueOf (exec (.msk boff (BitVec.ofNat 8 ((2 ^ width.toNat - 1) <<< lsb.toNat))) s)).map
            fun v => v / 2 ^ lsb.toNat)) ∧
    (s.cmd.extractLsb' 13 3 = 2 →
      decode s.cmd = .ext (s.cmd.extractLsb' 9 4) (s.cmd.extractLsb' 5 4) (s.cmd.extractLsb' 0 5))

/-- EXT2 boff, lsb, width: a bit range of b[boff]*256 + b[boff+1], both bytes always read. Formalises R93. -/
def Obligations.Ext2ShiftsABitRangeOfTheBigEndianPairDown : Prop :=
  ∀ s : State,
    (∀ (boff lsb : BitVec 4) (width : BitVec 5),
      (boff.toNat + 1 < s.len → exec (.ext2 boff lsb width) s =
        .next { s with rsp := (Result.value .raw ((((s.byte boff.toNat).toNat * 256 + (s.byte (boff.toNat + 1)).toNat) / 2 ^ lsb.toNat % 2 ^ width.toNat : Nat))).pack }) ∧
      (s.len ≤ boff.toNat + 1 → exec (.ext2 boff lsb width) s =
        .next { s with rsp := (Result.error .bufferBounds).pack }) ∧
      (boff = 15 → exec (.ext2 boff lsb width) s = .next { s with rsp := (Result.error .bufferBounds).pack }) ∧
      (encode (.ext2 boff lsb width)).toNat =
        0x6000 ||| (boff.toNat <<< 9) ||| (lsb.toNat <<< 5) ||| width.toNat ∧
      (boff.toNat + 1 < s.len →
        valueOf (exec (.ext2 boff 0 16) s) =
          (valueOf (exec (.msk boff 0xFF) s)).bind fun hi =>
            (valueOf (exec (.msk (boff + 1) 0xFF) s)).map fun lo => 256 * hi + lo) ∧
      (boff.toNat + 1 < s.len → 8 ≤ lsb.toNat →
        valueOf (exec (.ext2 boff lsb width) s) = valueOf (exec (.ext boff (lsb - 8) width) s)) ∧
      (boff.toNat + 1 < s.len → lsb.toNat + width.toNat ≤ 8 →
        valueOf (exec (.ext2 boff lsb width) s) = valueOf (exec (.ext (boff + 1) lsb width) s))) ∧
    (s.cmd.extractLsb' 13 3 = 3 →
      decode s.cmd = .ext2 (s.cmd.extractLsb' 9 4) (s.cmd.extractLsb' 5 4) (s.cmd.extractLsb' 0 5))

/-- MTDEC: the message type of byte 0 by bits 7:5, InvalidEnumCode for codes 4 to 7. Formalises R100. -/
def Obligations.MtdecClassifiesByteZero : Prop :=
  encode .mtdec = 0x8000#16 ∧
  ∀ s : State,
    let b := (s.byte 0).toNat
    (s.len = 0 → exec .mtdec s = .next { s with rsp := (Result.error .bufferBounds).pack }) ∧
    (0 < s.len →
      (b < 0x20 → exec .mtdec s = .next { s with rsp := (Result.value .enumMsgType (0)).pack }) ∧
      (0x20 ≤ b → b < 0x40 → exec .mtdec s = .next { s with rsp := (Result.value .enumMsgType (1)).pack }) ∧
      (0x40 ≤ b → b < 0x60 → exec .mtdec s = .next { s with rsp := (Result.value .enumMsgType (2)).pack }) ∧
      (0x60 ≤ b → b < 0x80 → exec .mtdec s = .next { s with rsp := (Result.value .enumMsgType (3)).pack }) ∧
      (0x80 ≤ b → exec .mtdec s = .next { s with rsp := (Result.error .invalidEnumCode).pack })) ∧
    (s.cmd.extractLsb' 13 3 = 4 →
      (s.cmd = 0x8000 → decode s.cmd = .mtdec) ∧ (s.cmd ≠ 0x8000 →
        step s = .next { s with rsp := (Result.error .illegalCommand).pack })) ∧
    (∀ v, valueOf (exec .mtdec s) = some v → valueOf (exec (.ext 0 5 3) s) = some v) ∧
    (∀ v, valueOf (exec (.ext 0 5 3) s) = some v → 4 ≤ v → exec .mtdec s =
      .next { s with rsp := (Result.error .invalidEnumCode).pack })

/-- OMDEC: nine modes from two disjoint code ranges, InvalidEnumCode for the seven other nibbles. Formalises R101.
-/
def Obligations.OmdecMapsTheLowNibble : Prop :=
  encode .omdec = 0xA000#16 ∧
  ∀ s : State,
    let b := (s.byte 0).toNat
    (s.len = 0 → exec .omdec s = .next { s with rsp := (Result.error .bufferBounds).pack }) ∧
    (0 < s.len →
      (b % 16 = 0 → exec .omdec s = .next { s with rsp := (Result.value .enumOpMode (0)).pack }) ∧
      (b % 16 = 1 → exec .omdec s = .next { s with rsp := (Result.value .enumOpMode (1)).pack }) ∧
      (b % 16 = 2 → exec .omdec s = .next { s with rsp := (Result.value .enumOpMode (2)).pack }) ∧
      (b % 16 = 3 → exec .omdec s = .next { s with rsp := (Result.value .enumOpMode (3)).pack }) ∧
      (b % 16 = 4 → exec .omdec s = .next { s with rsp := (Result.value .enumOpMode (4)).pack }) ∧
      (b % 16 = 11 → exec .omdec s = .next { s with rsp := (Result.value .enumOpMode (5)).pack }) ∧
      (b % 16 = 12 → exec .omdec s = .next { s with rsp := (Result.value .enumOpMode (6)).pack }) ∧
      (b % 16 = 13 → exec .omdec s = .next { s with rsp := (Result.value .enumOpMode (7)).pack }) ∧
      (b % 16 = 14 → exec .omdec s = .next { s with rsp := (Result.value .enumOpMode (8)).pack }) ∧
      (invalidModeNibble s → exec .omdec s = .next { s with rsp := (Result.error .invalidEnumCode).pack }) ∧
      valueOf (exec (.msk 0 0x0F) s) = some ((b % 16 : Nat) : Int)) ∧
    (s.cmd.extractLsb' 13 3 = 5 →
      (s.cmd = 0xA000 → decode s.cmd = .omdec) ∧ (s.cmd ≠ 0xA000 →
        step s = .next { s with rsp := (Result.error .illegalCommand).pack }))

/-- MTDEC succeeds on exactly 128 and OMDEC on exactly 144 of the 256 values of byte 0, by their tables. Formalises
R102. -/
def Obligations.CodecsSucceedOnTheirTruthTables : Prop :=
  (∀ s : State, 0 < s.len →
    let b := (s.byte 0).toNat
    valueOf (exec .mtdec s) = (if b < 0x80 then some ((b / 32 : Nat) : Int) else none) ∧
    valueOf (exec .omdec s) =
      (if b % 16 ≤ 4 then some ((b % 16 : Nat) : Int)
        else if 11 ≤ b % 16 ∧ b % 16 ≤ 14 then some ((b % 16 : Nat) - 6 : Int) else none) ∧
    (¬ b < 0x80 → exec .mtdec s = .next { s with rsp := (Result.error .invalidEnumCode).pack }) ∧
    (invalidModeNibble s → exec .omdec s = .next { s with rsp := (Result.error .invalidEnumCode).pack })) ∧
  (let oneByte := fun b : Nat =>
      ({ tg := Memory.drive [] 0 (BitVec.ofNat 8 b), tgLen := 1#5, cmd := 0#16, rsp := 0#32 } : State);
    (List.range 256).countP (fun b => (valueOf (exec .mtdec (oneByte b))).isSome) = 128 ∧
      (List.range 256).countP (fun b => (valueOf (exec .omdec (oneByte b))).isSome) = 144)

/-- The operation-mode table is a bijection between {0..4, 11..14} and the nine modes, ordinals 0 to 8. Formalises
R76. -/
def Obligations.OperationModeTableIsABijection : Prop :=
  (∀ c : Nat, (operationModeOfCode c).isSome = true ↔ c ∈ [0, 1, 2, 3, 4, 11, 12, 13, 14]) ∧
  (∀ c d m, operationModeOfCode c = some m → operationModeOfCode d = some m → c = d) ∧
  (∀ m : OperationMode, ∃ c, c ≤ 15 ∧ operationModeOfCode c = some m) ∧
  (∀ c m, operationModeOfCode c = some m → (m.ordinal : Int) = if c ≤ 4 then (c : Int) else (c : Int) - 6) ∧
  [0, 1, 2, 3, 4, 11, 12, 13, 14].map operationModeOfCode =
    [some .off, some .level1, some .level2, some .level3, some .level4, some .automatic,
      some .automaticOnDemand, some .supplyAirOnly, some .exhaustAirOnly] ∧
  (∀ s : State, 0 < s.len → exec .omdec s = .next { s with rsp := Result.pack (
    match operationModeOfCode ((s.byte 0).toNat % 16) with
    | some m => .value .enumOpMode m.ordinal
    | none => .error .invalidEnumCode) })

/-- SAFETY_MODE, BYPASS_OPENED and the two flap channels read bits 3 to 0 of byte 1. Formalises R110, R111, R112,
R113. -/
def Obligations.FlagChannelsOfByteOne : Prop :=
  ∀ row ∈ [(Instr.resSafetyMode, 0xC000#16, 1, 3, PhysUnit.boolOnOff),
        (Instr.resBypassOpened, 0xC001#16, 1, 2, PhysUnit.boolOpenClosed),
        (Instr.resSupplyFlapOpened, 0xC002#16, 1, 1, PhysUnit.boolOpenClosed),
        (Instr.resExhaustFlapOpened, 0xC003#16, 1, 0, PhysUnit.boolOpenClosed)],
    encode row.1 = row.2.1 ∧
    ∀ s : State, basicStatus s →
      (row.2.2.1 < s.len → exec row.1 s =
        .next { s with rsp := (Result.value row.2.2.2.2 (if (s.byte row.2.2.1).getLsbD row.2.2.2.1 then 1 else 0)).pack }) ∧
      (s.len ≤ row.2.2.1 → exec row.1 s = .next { s with rsp := (Result.error .bufferBounds).pack })

/-- The eight flag channels of byte 2 read bits 7 to 0. Formalises R114, R115, R116, R117, R118, R119, R120, R121.
-/
def Obligations.FlagChannelsOfByteTwo : Prop :=
  ∀ row ∈ [(Instr.resDefrostMode, 0xC004#16, 2, 7, PhysUnit.boolOnOff),
        (Instr.resCoolingProtection, 0xC005#16, 2, 6, PhysUnit.boolOnOff),
        (Instr.resOutdoorHeater, 0xC006#16, 2, 5, PhysUnit.boolOnOff),
        (Instr.resSupplyHeater, 0xC007#16, 2, 4, PhysUnit.boolOnOff),
        (Instr.resDrainHeater, 0xC008#16, 2, 3, PhysUnit.boolOnOff),
        (Instr.resTimerMode, 0xC009#16, 2, 2, PhysUnit.boolOnOff),
        (Instr.resFilterMaintenance, 0xC00A#16, 2, 1, PhysUnit.boolOnOff),
        (Instr.resWeeklyTimer, 0xC00B#16, 2, 0, PhysUnit.boolOnOff)],
    encode row.1 = row.2.1 ∧
    ∀ s : State, basicStatus s →
      (row.2.2.1 < s.len → exec row.1 s =
        .next { s with rsp := (Result.value row.2.2.2.2 (if (s.byte row.2.2.1).getLsbD row.2.2.2.1 then 1 else 0)).pack }) ∧
      (s.len ≤ row.2.2.1 → exec row.1 s = .next { s with rsp := (Result.error .bufferBounds).pack })

/-- ROOM_TEMP_CONTROL and MASTER_SLAVE read bit 7 of bytes 3 and 4. Formalises R122, R123. -/
def Obligations.FlagChannelsOfBytesThreeAndFour : Prop :=
  ∀ row ∈ [(Instr.resRoomTempControl, 0xC00C#16, 3, 7, PhysUnit.boolOnOff),
        (Instr.resMasterSlave, 0xC00D#16, 4, 7, PhysUnit.boolOnOff)],
    encode row.1 = row.2.1 ∧
    ∀ s : State, basicStatus s →
      (row.2.2.1 < s.len → exec row.1 s =
        .next { s with rsp := (Result.value row.2.2.2.2 (if (s.byte row.2.2.1).getLsbD row.2.2.2.1 then 1 else 0)).pack }) ∧
      (s.len ≤ row.2.2.1 → exec row.1 s = .next { s with rsp := (Result.error .bufferBounds).pack })

/-- On BASIC_STATUS a flag channel gives the value of BIT on its position, and only the unit differs. Formalises
R135. -/
def Obligations.FlagChannelsAgreeWithBit : Prop :=
  ∀ row ∈ ([(Instr.resSafetyMode, 1, 3, PhysUnit.boolOnOff), (Instr.resBypassOpened, 1, 2,
    PhysUnit.boolOpenClosed), (Instr.resSupplyFlapOpened, 1, 1, PhysUnit.boolOpenClosed),
    (Instr.resExhaustFlapOpened, 1, 0, PhysUnit.boolOpenClosed), (Instr.resDefrostMode, 2, 7,
    PhysUnit.boolOnOff), (Instr.resCoolingProtection, 2, 6, PhysUnit.boolOnOff), (Instr.resOutdoorHeater, 2,
    5, PhysUnit.boolOnOff), (Instr.resSupplyHeater, 2, 4, PhysUnit.boolOnOff), (Instr.resDrainHeater, 2, 3,
    PhysUnit.boolOnOff), (Instr.resTimerMode, 2, 2, PhysUnit.boolOnOff), (Instr.resFilterMaintenance, 2, 1,
    PhysUnit.boolOnOff), (Instr.resWeeklyTimer, 2, 0, PhysUnit.boolOnOff), (Instr.resRoomTempControl, 3, 7,
    PhysUnit.boolOnOff), (Instr.resMasterSlave, 4, 7, PhysUnit.boolOnOff)] :
      List (Instr × BitVec 4 × BitVec 3 × PhysUnit)),
    ∀ s : State, basicStatus s →
      (resultOf (exec (.bit row.2.1 row.2.2.1) s) = some (.error .bufferBounds) ∧
        resultOf (exec row.1 s) = some (.error .bufferBounds) ∧ s.len ≤ row.2.1.toNat) ∨
      (∃ v, resultOf (exec (.bit row.2.1 row.2.2.1) s) = some (.value .raw v) ∧
        resultOf (exec row.1 s) = some (.value row.2.2.2 v) ∧ row.2.1.toNat < s.len ∧
        v = (s.byte row.2.1.toNat).toNat / 2 ^ row.2.2.1.toNat % 2)

/-- AIR_QUALITY_1 and AIR_QUALITY_2: the low 7 bits of bytes 3 and 4, never clamped. Formalises R124, R125, R138. -/
def Obligations.AirQualityIsTheRawSevenBitNumber : Prop :=
  encode .resAirQuality1 = 0xC00E#16 ∧ encode .resAirQuality2 = 0xC00F#16 ∧
  ∀ s : State, basicStatus s →
    (3 < s.len → exec .resAirQuality1 s = .next { s with rsp :=
      (Result.value .percent (((s.byte 3).toNat % 128 : Nat))).pack } ∧
      valueOf (exec .resAirQuality1 s) = valueOf (exec (.msk 3 0x7F) s) ∧
      valueOf (exec .resAirQuality1 s) = valueOf (exec (.ext 3 0 7) s)) ∧
    (s.len ≤ 3 → exec .resAirQuality1 s = .next { s with rsp := (Result.error .bufferBounds).pack }) ∧
    (4 < s.len → exec .resAirQuality2 s = .next { s with rsp :=
      (Result.value .percent (((s.byte 4).toNat % 128 : Nat))).pack } ∧
      valueOf (exec .resAirQuality2 s) = valueOf (exec (.msk 4 0x7F) s)) ∧
    (s.len ≤ 4 → exec .resAirQuality2 s = .next { s with rsp := (Result.error .bufferBounds).pack })

/-- OUTDOOR_TEMP: bits 7:1 of byte 5, less 64, a signed whole number of degrees. Formalises R126. -/
def Obligations.OutdoorTemperatureIsSevenBitsLessSixtyFour : Prop :=
  encode .resOutdoorTemp = 0xC010#16 ∧
  ∀ s : State, basicStatus s →
    (5 < s.len → exec .resOutdoorTemp s = .next { s with rsp :=
      (Result.value .celsius (((s.byte 5).toNat / 2 : Nat) - 64)).pack } ∧
      valueOf (exec .resOutdoorTemp s) = (valueOf (exec (.ext 5 1 7) s)).map (fun raw => raw - 64) ∧
      (∀ v, valueOf (exec .resOutdoorTemp s) = some v → -64 ≤ v ∧ v ≤ 63)) ∧
    (s.len ≤ 5 → exec .resOutdoorTemp s = .next { s with rsp := (Result.error .bufferBounds).pack })

/-- SUPPLY_TEMP: low 7 bits of byte 5 over the top 6 bits of byte 6, less 64. Formalises R127. -/
def Obligations.SupplyTemperatureIsThirteenBitsLessSixtyFour : Prop :=
  encode .resSupplyTemp = 0xC011#16 ∧
  ∀ s : State, basicStatus s →
    (6 < s.len → exec .resSupplyTemp s =
        .next { s with rsp := (Result.value .celsius (((s.byte 5).toNat % 128 * 64 + (s.byte 6).toNat / 4 : Nat) - 64)).pack } ∧
      valueOf (exec .resSupplyTemp s) = (valueOf (exec (.ext2 5 2 13) s)).map (fun raw => raw - 64) ∧
      (∀ v, valueOf (exec .resSupplyTemp s) = some v → -64 ≤ v ∧ v ≤ 8127)) ∧
    (s.len ≤ 6 → exec .resSupplyTemp s = .next { s with rsp := (Result.error .bufferBounds).pack })

/-- The six fields without a known position answer UNSUPPORTED on every BASIC_STATUS telegram. Formalises R128,
R129, R130, R131, R132, R133, R139. -/
def Obligations.UnsupportedChannelsNeverGiveAValue : Prop :=
  ∀ row ∈ [(Instr.resIndoorTemp, 0xC012#16), (Instr.resExhaustTemp, 0xC013#16), (Instr.resSupplyFlow,
    0xC014#16), (Instr.resExhaustFlow, 0xC015#16), (Instr.resSupplyFanSpeed, 0xC016#16),
    (Instr.resExhaustFanSpeed, 0xC017#16)],
    encode row.1 = row.2 ∧ ∀ s : State, basicStatus s → exec row.1 s =
      .next { s with rsp := Result.unsupported.pack }

/-- RES OPERATION_MODE answers as OMDEC does on a BASIC_STATUS telegram. Formalises R134. -/
def Obligations.OperationModeChannelIsOmdecUnderBasicStatus : Prop :=
  encode .resOperationMode = 0xC018#16 ∧
  (∀ s : State, basicStatus s →
    ((s.byte 0).toNat % 16 = 0 → exec .resOperationMode s =
      .next { s with rsp := (Result.value .enumOpMode (0)).pack }) ∧
    ((s.byte 0).toNat % 16 = 1 → exec .resOperationMode s =
      .next { s with rsp := (Result.value .enumOpMode (1)).pack }) ∧
    ((s.byte 0).toNat % 16 = 2 → exec .resOperationMode s =
      .next { s with rsp := (Result.value .enumOpMode (2)).pack }) ∧
    ((s.byte 0).toNat % 16 = 3 → exec .resOperationMode s =
      .next { s with rsp := (Result.value .enumOpMode (3)).pack }) ∧
    ((s.byte 0).toNat % 16 = 4 → exec .resOperationMode s =
      .next { s with rsp := (Result.value .enumOpMode (4)).pack }) ∧
    ((s.byte 0).toNat % 16 = 11 → exec .resOperationMode s =
      .next { s with rsp := (Result.value .enumOpMode (5)).pack }) ∧
    ((s.byte 0).toNat % 16 = 12 → exec .resOperationMode s =
      .next { s with rsp := (Result.value .enumOpMode (6)).pack }) ∧
    ((s.byte 0).toNat % 16 = 13 → exec .resOperationMode s =
      .next { s with rsp := (Result.value .enumOpMode (7)).pack }) ∧
    ((s.byte 0).toNat % 16 = 14 → exec .resOperationMode s =
      .next { s with rsp := (Result.value .enumOpMode (8)).pack }) ∧
    (invalidModeNibble s → exec .resOperationMode s = .next { s with rsp :=
      (Result.error .invalidEnumCode).pack }) ∧
    exec .resOperationMode s = exec .omdec s) ∧
  (∀ s : State,
    (s.len = 0 → exec .resOperationMode s = .next { s with rsp := (Result.error .bufferBounds).pack }) ∧
    (otherMessageType s → exec .resOperationMode s = .next { s with rsp := Result.undefined.pack }) ∧
    (invalidMessageType s → exec .resOperationMode s = .next { s with rsp :=
      (Result.error .invalidEnumCode).pack })) ∧
  (∀ (i : Instr) (s t s' t' : State), isRes i → i ≠ .resOperationMode →
    s.len = t.len → (s.byte 0).toNat / 16 = (t.byte 0).toNat / 16 → (∀ a, 0 < a → s.byte a = t.byte a) →
    exec i s = .next s' → exec i t = .next t' → s'.rsp = t'.rsp)

/-- Channel codes 25 to 255 answer UNDEFINED on every BASIC_STATUS telegram. Formalises R143. -/
def Obligations.UnknownChannelsAnswerUndefined : Prop :=
  ∀ chan : BitVec 8, 25 ≤ chan.toNat →
    decode (BitVec.ofNat 16 (0xC000 + chan.toNat)) = .resUnknown chan ∧
    ∀ s : State, basicStatus s → exec (.resUnknown chan) s = .next { s with rsp := Result.undefined.pack }

/-- RES on a REMOTE_TRANSMISSION_REQUEST, CONTROL or EXTENDED_STATUS telegram answers UNDEFINED. Formalises R142. -/
def Obligations.OtherMessageTypesAnswerUndefinedToEveryChannel : Prop :=
  ∀ (i : Instr) (s : State), isRes i → otherMessageType s →
    exec i s = .next { s with rsp := Result.undefined.pack }

/-- RES on a telegram whose byte 0 is 0x80 to 0xFF answers ERROR(InvalidEnumCode) for every channel. Formalises
R144. -/
def Obligations.InvalidMessageTypeFailsEveryChannel : Prop :=
  ∀ (i : Instr) (s : State), isRes i → invalidMessageType s →
    exec i s = .next { s with rsp := (Result.error .invalidEnumCode).pack }

/-- RES: empty telegram, message type, dispatch, unknown channel, selected decoder, in that order. Derived from
R140, R145, R147, R169. -/
def Obligations.ResFollowsItsFiveSteps : Prop :=
  (∀ (i : Instr) (c : BitVec 8) (s : State), i.wellFormed = true → i.channelCode = some c →
    (encode i).toNat = 0xC000 ||| c.toNat ∧
    exec i s = .next { s with rsp := Result.pack (
      if s.len = 0 then .error .bufferBounds
      else if 4 ≤ (s.byte 0).toNat / 32 then .error .invalidEnumCode
      else if (s.byte 0).toNat / 32 ≠ 2 then .undefined
      else if 24 < c.toNat then .undefined
      else (decoderOutputs s.len (Memory.toPort s.tg))[c.toNat]?.getD .undefined) }) ∧
  (∀ s : State, s.cmd.extractLsb' 13 3 = 6 → s.cmd.extractLsb' 8 5 ≠ 0 →
    step s = .next { s with rsp := (Result.error .illegalCommand).pack })

/-- On an empty telegram every operation that reads fails with BufferBounds. Derived from R41, R169. -/
def Obligations.EmptyTelegramFailsEveryReadingOperation : Prop :=
  ∀ (i : Instr) (s : State), (∀ w, i ≠ .illegal w) → s.len = 0 →
    exec i s = .next { s with rsp := (Result.error .bufferBounds).pack }

/-- The low nibble of byte 0 affects no RES channel but OPERATION_MODE. Derived from R146, R134. -/
def Obligations.OnlyTheModeChannelSeesTheLowNibble : Prop :=
  ∀ (i : Instr) (s t s' t' : State), isRes i → i ≠ .resOperationMode →
    s.len = t.len → (s.byte 0).toNat / 32 = (t.byte 0).toNat / 32 →
    (∀ a, 0 < a → a < s.len → s.byte a = t.byte a) →
    exec i s = .next s' → exec i t = .next t' → s'.rsp = t'.rsp

/-- MTDEC, OMDEC and RES depend on no telegram bit that the layout map leaves unnamed. Derived from R48. -/
def Obligations.UnnamedTelegramBitsAreIgnored : Prop :=
  ∀ (i : Instr) (s t s' t' : State), i = .mtdec ∨ i = .omdec ∨ isRes i →
    s.len = t.len →
    (0 < s.len → (s.byte 0).toNat / 32 = (t.byte 0).toNat / 32 ∧
      (s.byte 0).toNat % 16 = (t.byte 0).toNat % 16) →
    (1 < s.len → (s.byte 1).toNat % 16 = (t.byte 1).toNat % 16) →
    (∀ a, 2 ≤ a → a ≤ 5 → a < s.len → s.byte a = t.byte a) →
    (6 < s.len → (s.byte 6).toNat / 4 = (t.byte 6).toNat / 4) →
    exec i s = .next s' → exec i t = .next t' → s'.rsp = t'.rsp

/-- Two telegrams with one effective length and the same bytes below it give the same response to every command.
Formalises R29. -/
def Obligations.BytesAtOrAboveTheLengthNeverMatter : Prop :=
  ∀ s t : State, s.cmd = t.cmd → sameTelegram s t →
    ∃ s' t', step s = .next s' ∧ step t = .next t' ∧ s'.rsp = t'.rsp

/-- For each command, BufferBounds is the response exactly when the telegram is shorter than the least length of
R150. Formalises R150. -/
def Obligations.LeastLengthsThatAvoidBufferBounds : Prop :=
  ∀ s : State,
    let fails := fun i : Instr => resultOf (exec i s) = some (.error .bufferBounds)
    (∀ i ∈ [Instr.mtdec, .omdec], fails i ↔ s.len < 1) ∧
    (∀ i, isRes i → ¬ (0x40 ≤ (s.byte 0).toNat ∧ (s.byte 0).toNat ≤ 0x5F) → (fails i ↔ s.len < 1)) ∧
    (0x40 ≤ (s.byte 0).toNat ∧ (s.byte 0).toNat ≤ 0x5F →
      (∀ i c, i.channelCode = some c → 18 ≤ c.toNat → (fails i ↔ s.len < 1)) ∧
      (∀ i ∈ [Instr.resSafetyMode, .resBypassOpened, .resSupplyFlapOpened, .resExhaustFlapOpened],
        fails i ↔ s.len < 2) ∧
      (∀ i ∈ [Instr.resDefrostMode, .resCoolingProtection, .resOutdoorHeater, .resSupplyHeater, .resDrainHeater,
        .resTimerMode, .resFilterMaintenance, .resWeeklyTimer], fails i ↔ s.len < 3) ∧
      (∀ i ∈ [Instr.resRoomTempControl, .resAirQuality1], fails i ↔ s.len < 4) ∧
      (∀ i ∈ [Instr.resMasterSlave, .resAirQuality2], fails i ↔ s.len < 5) ∧
      (fails .resOutdoorTemp ↔ s.len < 6) ∧ (fails .resSupplyTemp ↔ s.len < 7)) ∧
    (∀ (boff lsb : BitVec 4) (bit : BitVec 3) (mask : BitVec 8) (width : BitVec 5),
      (fails (.bit boff bit) ↔ s.len < boff.toNat + 1) ∧ (fails (.msk boff mask) ↔ s.len < boff.toNat + 1) ∧
      (fails (.ext boff lsb width) ↔ s.len < boff.toNat + 1) ∧
      (fails (.ext2 boff lsb width) ↔ s.len < boff.toNat + 2) ∧ fails (.ext2 15 lsb width)) ∧
    (7 ≤ s.len → ∀ i, i = .mtdec ∨ i = .omdec ∨ isRes i → ¬ fails i)

/-- UNDEFINED is the response exactly in the two cases of R167. Formalises R167. -/
def Obligations.UndefinedComesFromResAloneInTwoCases : Prop :=
  ∀ (i : Instr) (s : State), i.wellFormed = true →
    (resultOf (exec i s) = some .undefined ↔
      ∃ c, i.channelCode = some c ∧ (otherMessageType s ∨ (basicStatus s ∧ 25 ≤ c.toNat)))

/-- UNSUPPORTED is the response exactly to RES of channels 18 to 23 under BASIC_STATUS. Formalises R166. -/
def Obligations.UnsupportedComesFromSixChannelsAlone : Prop :=
  (∀ (i : Instr) (s : State), i.wellFormed = true →
    (resultOf (exec i s) = some .unsupported ↔
      basicStatus s ∧ ∃ c, i.channelCode = some c ∧ 18 ≤ c.toNat ∧ c.toNat ≤ 23)) ∧
  (∀ r : Result, r.pack = Result.unsupported.pack → r = .unsupported)

/-- InvalidEnumCode is the response exactly where a codec that the command consults fails. Formalises R162. -/
def Obligations.InvalidEnumCodeComesFromTheTwoCodecsAlone : Prop :=
  ∀ (i : Instr) (s : State),
    resultOf (exec i s) = some (.error .invalidEnumCode) ↔
      ((i = .mtdec ∨ isRes i) ∧ invalidMessageType s) ∨
      (i = .omdec ∧ 0 < s.len ∧ invalidModeNibble s) ∨
      (i = .resOperationMode ∧ basicStatus s ∧ invalidModeNibble s)

/-- No operation ends in an outcome that the table of R168 denies it. Derived from R168. -/
def Obligations.EachOperationEndsOnlyInItsOutcomes : Prop :=
  ∀ (i : Instr) (s : State) (r : Result), i.wellFormed = true → resultOf (exec i s) = some r →
    (genericOffset i ≠ none → (∃ v, r = .value .raw v) ∨ r = .error .bufferBounds) ∧
    (i = .mtdec → (∃ v, r = .value .enumMsgType v) ∨ r = .error .bufferBounds ∨ r = .error .invalidEnumCode) ∧
    (i = .omdec → (∃ v, r = .value .enumOpMode v) ∨ r = .error .bufferBounds ∨ r = .error .invalidEnumCode) ∧
    (∀ c, i.channelCode = some c →
      r = .error .bufferBounds ∨ r = .error .invalidEnumCode ∨ r = .undefined ∨
      ((c.toNat ≤ 17 ∨ c.toNat = 24) ∧ ∃ u v, r = .value u v) ∨
      (18 ≤ c.toNat ∧ c.toNat ≤ 23 ∧ r = .unsupported)) ∧
    (∀ w, i = .illegal w → r = .error .illegalCommand)

/-- A VALUE that RES delivers carries the declared unit of its channel. Derived from R74, R145. -/
def Obligations.ChannelValuesCarryTheirDeclaredUnit : Prop :=
  ∀ (i : Instr) (c : BitVec 8) (s : State) (u : PhysUnit) (v : Int), i.channelCode = some c →
    resultOf (exec i s) = some (.value u v) → declaredUnit c = some u ∧ u ≠ .m3PerH ∧ u ≠ .hertz

/-- Pack puts tag, error kind, unit and two's-complement value in the fields of R70, and nothing is lost. Formalises
R70, R71, R72. -/
def Obligations.ResponseWordHoldsItsResult : Prop :=
  (∀ (u : PhysUnit) (v : Int), -(2 ^ 19) ≤ v → v < 2 ^ 19 →
    let w := (Result.value u v).pack
    tagField w = 0b00#2 ∧ errField w = 0 ∧ zeroField w = 0 ∧
      unitField w = (match u with
        | .raw => 0#4
        | .boolOnOff => 1#4
        | .boolOpenClosed => 2#4
        | .percent => 3#4
        | .celsius => 4#4
        | .m3PerH => 5#4
        | .hertz => 6#4
        | .enumMsgType => 7#4
        | .enumOpMode => 8#4) ∧
      (valField w).toNat = v % 2 ^ 20 ∧ readValue w = v ∧ unpack w = some (.value u v)) ∧
  Result.undefined.pack = 0x40000000#32 ∧ Result.unsupported.pack = 0x80000000#32 ∧
  (Result.error .invalidEnumCode).pack = 0xD0000000#32 ∧ (Result.error .bufferBounds).pack = 0xE0000000#32 ∧
  (Result.error .illegalCommand).pack = 0xF0000000#32 ∧
  (∀ r : Result, (∀ u v, r ≠ .value u v) → unpack r.pack = some r ∧ tagField r.pack = r.tag.code ∧
    unitField r.pack = 0 ∧ zeroField r.pack = 0 ∧ valField r.pack = 0 ∧
    (r.tag ≠ .error → errField r.pack = 0)) ∧
  (∀ (u : PhysUnit) (v : Int), (Result.value u v).reachable = true → -(2 ^ 19) ≤ v ∧ v < 2 ^ 19)

/-- A word that stands for a result is the packing of that result. Derived from R70, R160. -/
def Obligations.ResponseWordsAreReadInOneWay : Prop :=
  ∀ (w : Response) (r : Result), unpack w = some r → r.pack = w

/-- Every VALUE lies in the range that R34 gives for its unit and producer. Formalises R34. -/
def Obligations.ValuesStayInTheRangesOfTheirProducers : Prop :=
  ∀ (i : Instr) (s : State) (u : PhysUnit) (v : Int), resultOf (exec i s) = some (.value u v) →
    (u = .raw ∧ 0 ≤ v ∧ ((∃ a k, i = .bit a k ∧ v ≤ 1) ∨ (∃ a m, i = .msk a m ∧ v ≤ 255) ∨
      (∃ a l w, i = .ext a l w ∧ v ≤ 255) ∨ (∃ a l w, i = .ext2 a l w ∧ v ≤ 65535))) ∨
    ((u = .boolOnOff ∨ u = .boolOpenClosed) ∧ 0 ≤ v ∧ v ≤ 1 ∧
      ∃ c, i.channelCode = some c ∧ c.toNat ≤ 13) ∨
    (u = .percent ∧ 0 ≤ v ∧ v ≤ 127 ∧ (i = .resAirQuality1 ∨ i = .resAirQuality2)) ∨
    (u = .celsius ∧ -64 ≤ v ∧ ((i = .resOutdoorTemp ∧ v ≤ 63) ∨ (i = .resSupplyTemp ∧ v ≤ 8127))) ∨
    (u = .enumMsgType ∧ 0 ≤ v ∧ v ≤ 3 ∧ i = .mtdec) ∨
    (u = .enumOpMode ∧ 0 ≤ v ∧ v ≤ 8 ∧ (i = .omdec ∨ i = .resOperationMode))

/-- A response that is an ERROR is one of three fixed words: no address, no code, no command. Formalises R164. -/
def Obligations.ErrorsCarryTheirKindAlone : Prop :=
  ∀ (i : Instr) (s t : State), exec i s = .next t →
    (tagField t.rsp = 3 → unitField t.rsp = 0 ∧ valField t.rsp = 0 ∧
      t.rsp ∈ [0xD0000000#32, 0xE0000000#32, 0xF0000000#32]) ∧
    (tagField t.rsp ≠ 0 → unitField t.rsp = 0 ∧ valField t.rsp = 0)

/-- Every step keeps the telegram canonical and leaves a producible response. Derived from R160, R34,
93_implementation_defined.md U15. The canonical form of the telegram is the model's own (log entry 2, DESIGN
CHOICE); the response patterns are the spec's. -/
def Obligations.EveryStepKeepsTheInvariant : Prop :=
  (∀ s s' : State, s.inv → step s = .next s' → s'.inv) ∧
  (∀ s s' : State, step s = .next s' → producible s'.rsp = true)

/-- The state at reset has a canonical telegram, a producible response, and the response of its own inputs. Derived
from R36, R190. The reset values are the model's choice (log entries 3 and 4); the spec gives none. -/
def Obligations.ResetMeetsTheInvariant : Prop :=
  State.reset.inv ∧ step State.reset = .next State.reset

/-- Every instruction answers a next state on every state, and only rsp differs. Derived from R9, R51, R199. -/
def Obligations.EveryRequestEndsAndOnlyRspChanges : Prop :=
  ∀ (i : Instr) (s : State), ∃ t, exec i s = .next t ∧ t = { s with rsp := t.rsp } ∧
    (∀ a : Nat, t.byte a = s.byte a) ∧ t.len = s.len ∧ t.tgLen = s.tgLen ∧ t.cmd = s.cmd

/-- A step drives rsp with the function Exec(cmd, tg_len, tg_data), computed by the parallel hardware of R147.
Derived from R27, R62, R147. -/
def Obligations.StepComputesThePortFunction : Prop :=
  ∀ s : State, step s = .next { s with rsp := portFunction s.cmd s.tgLen (Memory.toPort s.tg) }

/-- What lies on rsp does not matter, and a step repeated changes nothing. Derived from R20, R46, R151. -/
def Obligations.RepeatedRequestsGiveTheSameResponse : Prop :=
  ∀ s : State, (∀ x : Response, step { s with rsp := x } = step s) ∧
    (∀ t, step s = .next t → step t = .next t)

/-- A session of any requests answers each with the port function of that request alone. Derived from R20, R22, R52,
R172. -/
def Obligations.SessionAnswersEachRequestByItself : Prop :=
  ∀ (rs : List Request) (s : State),
    serve rs s = rs.map fun r => portFunction r.cmd r.tgLen r.tgData

/-- Reordering the requests of a session changes no response. Derived from R22, R52. -/
def Obligations.ReorderedSessionsGiveTheSameAnswers : Prop :=
  ∀ (rs qs : List Request) (s t : State), rs.Perm qs →
    (rs.zip (serve rs s)).Perm (qs.zip (serve qs t))

/-- After a failed request the session goes on as if the failed one had never been made. Formalises R172. -/
def Obligations.FailedRequestsLeaveNoTrace : Prop :=
  ∀ (q : Request) (s t : State), step (present q s) = .next t → tagField t.rsp = Tag.error.code →
    (∀ r : Request, step (present r t) = step (present r s)) ∧ step (present q t) = .next t ∧
    (∀ qs rs : List Request, serve (qs ++ q :: rs) s = serve qs s ++ t.rsp :: serve rs s ∧
      serve (qs ++ rs) s = serve qs s ++ serve rs s)

/-- Byte i of the telegram is tg_data[8*i+7 : 8*i]. Formalises R28. -/
def Obligations.PortBytesAreTheTelegramBytes : Prop :=
  ∀ (r : Request) (s : State),
    (∀ i, i < 16 → (present r s).byte i = r.tgData.extractLsb' (8 * i) 8) ∧
    Memory.toPort (present r s).tg = r.tgData

/-- The telegram of a port word is canonical, and a canonical telegram is determined by its bytes. Derived from R27,
R28. The canonical form is the model's own (log entry 2, DESIGN CHOICE). -/
def Obligations.CanonicalTelegramsAreTheirPortWords : Prop :=
  (∀ d : PortData, Memory.wf (Memory.ofPort d) = true ∧
    ∀ i, 16 ≤ i → Memory.read (Memory.ofPort d) i = Memory.unlisted) ∧
  (∀ m : Memory, Memory.wf m = true → Memory.ofPort (Memory.toPort m) = m) ∧
  (∀ m n : Memory, Memory.wf m = true → Memory.wf n = true →
    (∀ a, Memory.read m a = Memory.read n a) → m = n)

/-- tg_len values 17 to 31 mean 16, and length 0 is an empty telegram. Formalises R41. -/
def Obligations.EffectiveLengthSaturatesAtSixteen : Prop :=
  ∀ s : State, s.len = min s.tgLen.toNat 16 ∧
    (16 ≤ s.tgLen.toNat → ∃ t t', step s = .next t ∧ step { s with tgLen := 16#5 } = .next t' ∧
      t.rsp = t'.rsp) ∧
    (s.tgLen = 0 → ∀ i : Instr, (∀ w, i ≠ .illegal w) → exec i s =
      .next { s with rsp := (Result.error .bufferBounds).pack })

/-- MemRead(A, n) succeeds if and only if A + n - 1 < len, and gives the big-endian number. Derived from R43, R44,
R45. -/
def Obligations.ReadsSucceedExactlyInBounds : Prop :=
  ∀ (s : State) (a : Nat),
    (a < s.len → memRead s a 1 = .ok (s.byte a).toNat) ∧
    (s.len ≤ a → memRead s a 1 = .error .bufferBounds) ∧
    (a + 1 < s.len → memRead s a 2 = .ok ((s.byte a ++ s.byte (a + 1)).toNat)) ∧
    (s.len ≤ a + 1 → memRead s a 2 = .error .bufferBounds)

/-- For the generic reads and the codecs, BufferBounds depends on the command and the length, never on the bytes.
Derived from R163. -/
def Obligations.BoundsErrorsDependOnLengthAlone : Prop :=
  ∀ (i : Instr) (s t : State), s.len = t.len → (isRes i → s.byte 0 = t.byte 0) →
    (resultOf (exec i s) = some (.error .bufferBounds) ↔ resultOf (exec i t) = some (.error .bufferBounds))

/-- Every number is read back from its decimal, hexadecimal (either case) and binary spelling, every word from its
four digits, every channel from its mnemonic. Derived from R77, R74, R78. That hexadecimal digits are read in both
cases is the model's choice (log entry 14, DESIGN CHOICE); the spec's examples write the letters in upper case. -/
def Obligations.WrittenNumbersAndChannelNamesAreReadBack : Prop :=
  (∀ n : Nat, numberOf (Nat.toDigits 10 n) = some n ∧ numberOf ('0' :: 'x' :: Nat.toDigits 16 n) = some n ∧
    numberOf ('0' :: 'x' :: (Nat.toDigits 16 n).map Char.toUpper) = some n ∧
    numberOf ('0' :: 'b' :: Nat.toDigits 2 n) = some n) ∧
  (∀ w : Command,
    let digits := [w.toNat / 4096, w.toNat / 256 % 16, w.toNat / 16 % 16, w.toNat % 16].map Nat.digitChar
    wordOf ('0' :: 'x' :: digits) = some w ∧ wordOf ('0' :: 'x' :: digits.map Char.toUpper) = some w) ∧
  (∀ k : Nat, k < 25 → ∃ m, channelMnemonics[k]? = some m ∧ channelOf m.toList = some k ∧
    ∃ r ∈ opcodeTable, r.mnemonic = "RES." ++ m ∧ assemble (.res k) = some r.pattern)

/-- The unit field of every response is the code that R73 gives the producer's unit, and never 5, 6 or 9 to 15.
Derived from R73, R34, R74. -/
def Obligations.ResponsesCarryTheUnitCodesOfTheirProducers : Prop :=
  ∀ (i : Instr) (s t : State), exec i s = .next t →
    (unitField t.rsp).toNat ≤ 8 ∧ unitField t.rsp ≠ 5#4 ∧ unitField t.rsp ≠ 6#4 ∧
    (tagField t.rsp = 0b00#2 →
      (genericOffset i ≠ none → unitField t.rsp = 0#4) ∧
      (i = .mtdec → unitField t.rsp = 7#4) ∧
      (i = .omdec → unitField t.rsp = 8#4) ∧
      (∀ c, i.channelCode = some c →
        (1 ≤ c.toNat → c.toNat ≤ 3 → unitField t.rsp = 2#4) ∧
        (c.toNat = 0 ∨ (4 ≤ c.toNat ∧ c.toNat ≤ 13) → unitField t.rsp = 1#4) ∧
        (c.toNat = 14 ∨ c.toNat = 15 → unitField t.rsp = 3#4) ∧
        (c.toNat = 16 ∨ c.toNat = 17 → unitField t.rsp = 4#4) ∧
        (c.toNat = 24 → unitField t.rsp = 8#4)))

end
end

