-- ==== Sys2Proof/Laws/Codec.lean ====
section
/-! SUPPORT. The fields of a command word and the words of the formats as numbers: what the encoding proofs use
instead of bit lists. -/

namespace Sys2Proof

theorem opField_toNat (w : Command) : (opField w).toNat = w.toNat / 2 ^ 13 := by
  have := w.isLt
  simp only [opField, BitVec.extractLsb, BitVec.extractLsb'_toNat, Nat.shiftRight_eq_div_pow]
  omega

theorem boffField_toNat (w : Command) : (boffField w).toNat = w.toNat / 2 ^ 9 % 2 ^ 4 := by
  simp [boffField, BitVec.extractLsb, BitVec.extractLsb'_toNat, Nat.shiftRight_eq_div_pow]

theorem bitField_toNat (w : Command) : (bitField w).toNat = w.toNat % 2 ^ 3 := by
  simp [bitField, BitVec.extractLsb, BitVec.extractLsb'_toNat]

theorem maskField_toNat (w : Command) : (maskField w).toNat = w.toNat % 2 ^ 8 := by
  simp [maskField, BitVec.extractLsb, BitVec.extractLsb'_toNat]

theorem lsbField_toNat (w : Command) : (lsbField w).toNat = w.toNat / 2 ^ 5 % 2 ^ 4 := by
  simp [lsbField, BitVec.extractLsb, BitVec.extractLsb'_toNat, Nat.shiftRight_eq_div_pow]

theorem widthField_toNat (w : Command) : (widthField w).toNat = w.toNat % 2 ^ 5 := by
  simp [widthField, BitVec.extractLsb, BitVec.extractLsb'_toNat]

theorem chanField_toNat (w : Command) : (chanField w).toNat = w.toNat % 2 ^ 8 := by
  simp [chanField, BitVec.extractLsb, BitVec.extractLsb'_toNat]

theorem zeroBitsB_toNat (w : Command) : (zeroBitsB w).toNat = w.toNat / 2 ^ 3 % 2 ^ 6 := by
  simp [zeroBitsB, BitVec.extractLsb, BitVec.extractLsb'_toNat, Nat.shiftRight_eq_div_pow]

theorem zeroBitM_toNat (w : Command) : (zeroBitM w).toNat = w.toNat / 2 ^ 8 % 2 := by
  simp [zeroBitM, BitVec.extractLsb, BitVec.extractLsb'_toNat, Nat.shiftRight_eq_div_pow]

theorem zeroBitsZ_toNat (w : Command) : (zeroBitsZ w).toNat = w.toNat % 2 ^ 13 := by
  simp [zeroBitsZ, BitVec.extractLsb, BitVec.extractLsb'_toNat]

theorem zeroBitsC_toNat (w : Command) : (zeroBitsC w).toNat = w.toNat / 2 ^ 8 % 2 ^ 5 := by
  simp [zeroBitsC, BitVec.extractLsb, BitVec.extractLsb'_toNat, Nat.shiftRight_eq_div_pow]

/-- A slice as a number. -/
theorem slice_toNat (w : Command) (start len : Nat) :
    (w.extractLsb' start len).toNat = w.toNat / 2 ^ start % 2 ^ len := by
  simp [BitVec.extractLsb'_toNat, Nat.shiftRight_eq_div_pow]

/-- Concatenation as a number. -/
theorem append_toNat {n m : Nat} (x : BitVec n) (y : BitVec m) :
    (x ++ y).toNat = x.toNat * 2 ^ m + y.toNat := by
  rw [BitVec.toNat_append, Nat.shiftLeft_eq, Nat.mul_comm, Nat.two_pow_add_eq_or_of_lt y.isLt]

theorem encode_bit_toNat (boff : BitVec 4) (bit : BitVec 3) :
    (encode (.bit boff bit)).toNat = boff.toNat * 2 ^ 9 + bit.toNat := by
  simp only [encode, append_toNat, BitVec.toNat_ofNat]
  omega

theorem encode_msk_toNat (boff : BitVec 4) (mask : BitVec 8) :
    (encode (.msk boff mask)).toNat = 0x2000 + boff.toNat * 2 ^ 9 + mask.toNat := by
  simp only [encode, append_toNat, BitVec.toNat_ofNat]
  omega

theorem encode_ext_toNat (boff lsb : BitVec 4) (width : BitVec 5) :
    (encode (.ext boff lsb width)).toNat =
      0x4000 + boff.toNat * 2 ^ 9 + lsb.toNat * 2 ^ 5 + width.toNat := by
  simp only [encode, append_toNat, BitVec.toNat_ofNat]
  omega

theorem encode_ext2_toNat (boff lsb : BitVec 4) (width : BitVec 5) :
    (encode (.ext2 boff lsb width)).toNat =
      0x6000 + boff.toNat * 2 ^ 9 + lsb.toNat * 2 ^ 5 + width.toNat := by
  simp only [encode, append_toNat, BitVec.toNat_ofNat]
  omega

theorem formatC_toNat (chan : BitVec 8) : (formatC chan).toNat = 0xC000 + chan.toNat := by
  simp only [formatC, append_toNat, BitVec.toNat_ofNat]
  omega

/-- A word that falls under a case of R66 decodes to ILLEGAL. -/
theorem decode_of_illegalCase {w : Command} {c : IllegalCase} (h : illegalCase w = some c) :
    decode w = .illegal w := by
  unfold decode; rw [h]

/-- A legal word decodes by its operation code. -/
theorem decode_of_legal {w : Command} (h : illegalCase w = none) : decode w = decodeLegal w := by
  unfold decode; rw [h]

theorem decode_op0 {w : Command} (h : opField w = 0) :
    decode w = if zeroBitsB w = 0 then .bit (boffField w) (bitField w) else .illegal w := by
  have ho : (opField w).toNat = 0 := by rw [h]; rfl
  by_cases hz : zeroBitsB w = 0
  · have hc : illegalCase w = none := by unfold illegalCase; rw [ho]; exact if_pos hz
    rw [decode_of_legal hc, if_pos hz]; unfold decodeLegal; rw [ho]; rfl
  · have hc : ∃ c, illegalCase w = some c := by unfold illegalCase; rw [ho]; exact ⟨_, if_neg hz⟩
    rw [decode_of_illegalCase hc.choose_spec, if_neg hz]

theorem decode_op1 {w : Command} (h : opField w = 1) :
    decode w = if zeroBitM w = 0 then .msk (boffField w) (maskField w) else .illegal w := by
  have ho : (opField w).toNat = 1 := by rw [h]; rfl
  by_cases hz : zeroBitM w = 0
  · have hc : illegalCase w = none := by unfold illegalCase; rw [ho]; exact if_pos hz
    rw [decode_of_legal hc, if_pos hz]; unfold decodeLegal; rw [ho]; rfl
  · have hc : ∃ c, illegalCase w = some c := by unfold illegalCase; rw [ho]; exact ⟨_, if_neg hz⟩
    rw [decode_of_illegalCase hc.choose_spec, if_neg hz]

theorem decode_op2 {w : Command} (h : opField w = 2) :
    decode w = .ext (boffField w) (lsbField w) (widthField w) := by
  have ho : (opField w).toNat = 2 := by rw [h]; rfl
  have hc : illegalCase w = none := by unfold illegalCase; rw [ho]; rfl
  rw [decode_of_legal hc]; unfold decodeLegal; rw [ho]; rfl

theorem decode_op3 {w : Command} (h : opField w = 3) :
    decode w = .ext2 (boffField w) (lsbField w) (widthField w) := by
  have ho : (opField w).toNat = 3 := by rw [h]; rfl
  have hc : illegalCase w = none := by unfold illegalCase; rw [ho]; rfl
  rw [decode_of_legal hc]; unfold decodeLegal; rw [ho]; rfl

theorem decode_op4 {w : Command} (h : opField w = 4) :
    decode w = if zeroBitsZ w = 0 then .mtdec else .illegal w := by
  have ho : (opField w).toNat = 4 := by rw [h]; rfl
  by_cases hz : zeroBitsZ w = 0
  · have hc : illegalCase w = none := by unfold illegalCase; rw [ho]; exact if_pos hz
    rw [decode_of_legal hc, if_pos hz]; unfold decodeLegal; rw [ho]; rfl
  · have hc : ∃ c, illegalCase w = some c := by unfold illegalCase; rw [ho]; exact ⟨_, if_neg hz⟩
    rw [decode_of_illegalCase hc.choose_spec, if_neg hz]

theorem decode_op5 {w : Command} (h : opField w = 5) :
    decode w = if zeroBitsZ w = 0 then .omdec else .illegal w := by
  have ho : (opField w).toNat = 5 := by rw [h]; rfl
  by_cases hz : zeroBitsZ w = 0
  · have hc : illegalCase w = none := by unfold illegalCase; rw [ho]; exact if_pos hz
    rw [decode_of_legal hc, if_pos hz]; unfold decodeLegal; rw [ho]; rfl
  · have hc : ∃ c, illegalCase w = some c := by unfold illegalCase; rw [ho]; exact ⟨_, if_neg hz⟩
    rw [decode_of_illegalCase hc.choose_spec, if_neg hz]

theorem decode_op6 {w : Command} (h : opField w = 6) :
    decode w = if zeroBitsC w = 0 then decodeChannel (chanField w) else .illegal w := by
  have ho : (opField w).toNat = 6 := by rw [h]; rfl
  by_cases hz : zeroBitsC w = 0
  · have hc : illegalCase w = none := by unfold illegalCase; rw [ho]; exact if_pos hz
    rw [decode_of_legal hc, if_pos hz]; unfold decodeLegal; rw [ho]; rfl
  · have hc : ∃ c, illegalCase w = some c := by unfold illegalCase; rw [ho]; exact ⟨_, if_neg hz⟩
    rw [decode_of_illegalCase hc.choose_spec, if_neg hz]

theorem decode_op7 {w : Command} (h : opField w = 7) : decode w = .illegal w := by
  have ho : (opField w).toNat = 7 := by rw [h]; rfl
  have hc : illegalCase w = some .reservedOp := by unfold illegalCase; rw [ho]; rfl
  exact decode_of_illegalCase hc

/-- The eight operation codes. -/
theorem opField_cases (w : Command) :
    opField w = 0 ∨ opField w = 1 ∨ opField w = 2 ∨ opField w = 3 ∨ opField w = 4 ∨ opField w = 5 ∨
      opField w = 6 ∨ opField w = 7 := by
  generalize opField w = x
  revert x
  decide

/-- No channel code decodes to ILLEGAL. -/
theorem decodeChannel_ne_illegal (c : BitVec 8) (w : Command) : decodeChannel c ≠ .illegal w := by
  unfold decodeChannel
  split <;> exact Instr.noConfusion

/-- The RES row of a channel code carries that code, is well-formed and encodes to format C. -/
theorem decodeChannel_spec : ∀ c : BitVec 8, (decodeChannel c).channelCode = some c ∧
    (decodeChannel c).wellFormed = true ∧ encode (decodeChannel c) = formatC c := by
  decide

end Sys2Proof
end

