-- ==== Sys2Proof/Laws/State.lean ====
section
/-! SUPPORT. One lemma per field for every update of the state. -/

namespace Sys2Proof.Machine

section
variable (s : State) (r : Result) (k : ErrKind) (o : Except ErrKind Result) (q : Request) (n w : Nat)

@[simp] theorem respond_tg : (respond r s).tg = s.tg := rfl
@[simp] theorem respond_tgLen : (respond r s).tgLen = s.tgLen := rfl
@[simp] theorem respond_cmd : (respond r s).cmd = s.cmd := rfl
@[simp] theorem respond_rsp : (respond r s).rsp = r.pack := rfl
@[simp] theorem raise_tg : (raise k s).tg = s.tg := rfl
@[simp] theorem raise_tgLen : (raise k s).tgLen = s.tgLen := rfl
@[simp] theorem raise_cmd : (raise k s).cmd = s.cmd := rfl
@[simp] theorem raise_rsp : (raise k s).rsp = (Result.error k).pack := rfl
@[simp] theorem deliver_ok : deliver (.ok r) s = respond r s := rfl
@[simp] theorem deliver_error : deliver (.error k) s = respond (.error k) s := rfl
@[simp] theorem deliver_tg : (deliver o s).tg = s.tg := by cases o <;> rfl
@[simp] theorem deliver_tgLen : (deliver o s).tgLen = s.tgLen := by cases o <;> rfl
@[simp] theorem deliver_cmd : (deliver o s).cmd = s.cmd := by cases o <;> rfl
@[simp] theorem withFetchWord_tg : (s.withFetchWord n w).tg = s.tg := rfl
@[simp] theorem withFetchWord_tgLen : (s.withFetchWord n w).tgLen = s.tgLen := rfl
@[simp] theorem withFetchWord_cmd : (s.withFetchWord n w).cmd = BitVec.ofNat 16 w := rfl
@[simp] theorem withFetchWord_rsp : (s.withFetchWord n w).rsp = s.rsp := rfl
@[simp] theorem present_tg : (present q s).tg = Memory.ofPort q.tgData := rfl
@[simp] theorem present_tgLen : (present q s).tgLen = q.tgLen := rfl
@[simp] theorem present_cmd : (present q s).cmd = q.cmd := rfl
@[simp] theorem present_rsp : (present q s).rsp = s.rsp := rfl

/-- Delivering an outcome sets `rsp` to its packed result and changes nothing else. -/
theorem deliver_eq : deliver o s =
    { s with rsp := (match o with | .ok r => r | .error k => Result.error k).pack } := by
  cases o <;> rfl

end

/-- What lies on `rsp` plays no part in the length and the bytes of a telegram. -/
@[simp] theorem len_of_rsp (s : State) (x : Response) : ({ s with rsp := x } : State).len = s.len := rfl
@[simp] theorem byte_of_rsp (s : State) (x : Response) (a : Nat) :
    ({ s with rsp := x } : State).byte a = s.byte a := rfl
@[simp] theorem len_of_cmd (s : State) (c : Command) : ({ s with cmd := c } : State).len = s.len := rfl
@[simp] theorem byte_of_cmd (s : State) (c : Command) (a : Nat) :
    ({ s with cmd := c } : State).byte a = s.byte a := rfl

end Sys2Proof.Machine
end

