-- ==== Sys2Proof/Laws/Ops.lean ====
section
/-! SUPPORT. What each shared operation can do, once: the bounds-checked read, the bit and field arithmetic, the two
codecs on the ranges of byte 0, and the dispatch. -/

namespace Sys2Proof.Machine

theorem len_le (s : State) : s.len ≤ 16 := Nat.min_le_right _ _

theorem byte_lt (s : State) (a : Nat) : (s.byte a).toNat < 256 := (s.byte a).isLt

/-- A one-byte read gives the byte, exactly when it is in bounds. -/
theorem memRead_one (s : State) (a : Nat) :
    memRead s a 1 = if a < s.len then .ok (s.byte a).toNat else .error .bufferBounds := by
  simp [memRead, bigEndian]

/-- A two-byte read gives the big-endian pair, exactly when both bytes are in bounds. -/
theorem memRead_two (s : State) (a : Nat) :
    memRead s a 2 = if a + 1 < s.len then .ok ((s.byte a).toNat * 256 + (s.byte (a + 1)).toNat)
      else .error .bufferBounds := by
  have : (a + 2 ≤ s.len) = (a + 1 < s.len) := rfl
  simp only [memRead, bigEndian, this, Nat.zero_mul, Nat.zero_add, Nat.add_zero]

theorem memRead_one_of_lt {s : State} {a : Nat} (h : a < s.len) : memRead s a 1 = .ok (s.byte a).toNat := by
  simp [memRead_one, h]

theorem memRead_one_of_ge {s : State} {a : Nat} (h : s.len ≤ a) : memRead s a 1 = .error .bufferBounds := by
  simp [memRead_one, Nat.not_lt.2 h]

theorem memRead_two_of_lt {s : State} {a : Nat} (h : a + 1 < s.len) :
    memRead s a 2 = .ok ((s.byte a).toNat * 256 + (s.byte (a + 1)).toNat) := by
  simp [memRead_two, h]

theorem memRead_two_of_ge {s : State} {a : Nat} (h : s.len ≤ a + 1) :
    memRead s a 2 = .error .bufferBounds := by
  simp [memRead_two, Nat.not_lt.2 h]

theorem ok_bind {α β : Type} (x : α) (f : α → Except ErrKind β) : (Except.ok x >>= f) = f x := rfl

theorem error_bind {α β : Type} (e : ErrKind) (f : α → Except ErrKind β) :
    (Except.error e >>= f) = .error e := rfl

/-- A bit as a quotient and a remainder. -/
theorem bitAt_eq (v k : Nat) : bitAt v k = v / 2 ^ k % 2 := by
  simp [bitAt, Nat.shiftRight_eq_div_pow, Nat.and_one_is_mod]

/-- A bit of a byte, as the number a flag or BIT answers with. -/
theorem bitAt_byte (b : Byte) (k : Nat) : ((bitAt b.toNat k : Nat) : Int) = bitValue b k := by
  rw [bitValue, BitVec.getLsbD, bitAt_eq, Nat.testBit_eq_decide_div_mod_eq]
  rcases Nat.mod_two_eq_zero_or_one (b.toNat / 2 ^ k) with h | h <;> simp [h]

/-- A bit range as a quotient and a remainder. -/
theorem bitRange_eq (v lsb width : Nat) : bitRange v lsb width = v / 2 ^ lsb % 2 ^ width := by
  simp [bitRange, Nat.shiftRight_eq_div_pow]

theorem low7_eq (v : Nat) : v &&& 0x7F = v % 128 := Nat.and_two_pow_sub_one_eq_mod v 7

theorem low4_eq (v : Nat) : v &&& 15 = v % 16 := Nat.and_two_pow_sub_one_eq_mod v 4

theorem typeCode_eq {v : Nat} (h : v < 256) : (v >>> 5) &&& 7 = v / 32 := by
  have : v / 32 < 8 := by omega
  rw [Nat.shiftRight_eq_div_pow, Nat.and_two_pow_sub_one_eq_mod _ 3, Nat.mod_eq_of_lt this]

/-- The message-type codec on the ranges of byte 0. -/
theorem decodeMessageType_eq {v : Nat} (h : v < 256) : decodeMessageType v =
    if v < 0x20 then .ok .remoteTransmissionRequest
    else if v < 0x40 then .ok .control
    else if v < 0x60 then .ok .basicStatus
    else if v < 0x80 then .ok .extendedStatus
    else .error .invalidEnumCode := by
  have hq : v / 32 < 8 := by omega
  simp only [decodeMessageType, typeCode_eq h]
  generalize hc : v / 32 = c at hq ⊢
  interval_cases c <;> simp only [messageTypeOfCode] <;>
    (repeat' split) <;> first | rfl | omega

/-- The dispatch on an empty telegram. -/
theorem dispatch_empty {s : State} (h : s.len = 0) (f : Except ErrKind Result) :
    dispatch s f = .error .bufferBounds := by
  rw [dispatch, memRead_one_of_ge (by omega)]; rfl

/-- The dispatch on a BASIC_STATUS telegram is the selected decoder. -/
theorem dispatch_basic {s : State} (h : basicStatus s) (f : Except ErrKind Result) : dispatch s f = f := by
  obtain ⟨h0, h1, h2⟩ := h
  have : ¬ (s.byte 0).toNat < 0x20 := by omega
  have : ¬ (s.byte 0).toNat < 0x40 := by omega
  have : (s.byte 0).toNat < 0x60 := by omega
  simp [dispatch, memRead_one_of_lt h0, ok_bind, decodeMessageType_eq (byte_lt s 0), *]

/-- The dispatch on a telegram of another message type. -/
theorem dispatch_other {s : State} (h : otherMessageType s) (f : Except ErrKind Result) :
    dispatch s f = .ok .undefined := by
  obtain ⟨h0, h1⟩ := h
  simp only [dispatch, memRead_one_of_lt h0, ok_bind, decodeMessageType_eq (byte_lt s 0)]
  split
  · rfl
  · split
    · rfl
    · split
      · omega
      · split
        · rfl
        · omega

/-- The dispatch on a telegram without a message type. -/
theorem dispatch_invalid {s : State} (h : invalidMessageType s) (f : Except ErrKind Result) :
    dispatch s f = .error .invalidEnumCode := by
  obtain ⟨h0, h1⟩ := h
  have : ¬ (s.byte 0).toNat < 0x20 := by omega
  have : ¬ (s.byte 0).toNat < 0x40 := by omega
  have : ¬ (s.byte 0).toNat < 0x60 := by omega
  have : ¬ (s.byte 0).toNat < 0x80 := by omega
  simp [dispatch, memRead_one_of_lt h0, ok_bind, error_bind, decodeMessageType_eq (byte_lt s 0), *]

/-- Every telegram is empty, BASIC_STATUS, of another message type, or without one. -/
theorem telegram_cases (s : State) :
    s.len = 0 ∨ basicStatus s ∨ otherMessageType s ∨ invalidMessageType s := by
  have := byte_lt s 0
  unfold basicStatus otherMessageType invalidMessageType
  omega

/-- The operation-mode codec by the low nibble of byte 0. -/
theorem decodeOperationMode_eq (v : Nat) : decodeOperationMode v =
    match operationModeOfCode (v % 16) with
    | some m => .ok m
    | none => .error .invalidEnumCode := by
  rw [← low4_eq]; rfl

end Sys2Proof.Machine
end

