-- ==== Sys2Proof/Laws/Exec.lean ====
section
/-! SUPPORT. Every instruction ends by delivering one outcome: `exec` and `step` said once in terms of it, and what a
consumer reads back. -/

namespace Sys2Proof.Machine

/-- The outcome that an instruction delivers: the left side of `deliver` in its meaning. -/
def outcomeOf (i : Instr) (s : State) : Except ErrKind Result :=
  match i with
  | .bit boff bit => readBit s boff bit
  | .msk boff mask => readMasked s boff mask
  | .ext boff lsb width => readRange s boff lsb width
  | .ext2 boff lsb width => readRangeOfPair s boff lsb width
  | .mtdec => readMessageType s
  | .omdec => readOperationMode s
  | .resSafetyMode => dispatch s (safetyMode s)
  | .resBypassOpened => dispatch s (bypassOpened s)
  | .resSupplyFlapOpened => dispatch s (supplyFlapOpened s)
  | .resExhaustFlapOpened => dispatch s (exhaustFlapOpened s)
  | .resDefrostMode => dispatch s (defrostMode s)
  | .resCoolingProtection => dispatch s (coolingProtection s)
  | .resOutdoorHeater => dispatch s (outdoorHeater s)
  | .resSupplyHeater => dispatch s (supplyHeater s)
  | .resDrainHeater => dispatch s (drainHeater s)
  | .resTimerMode => dispatch s (timerMode s)
  | .resFilterMaintenance => dispatch s (filterMaintenance s)
  | .resWeeklyTimer => dispatch s (weeklyTimer s)
  | .resRoomTempControl => dispatch s (roomTempControl s)
  | .resMasterSlave => dispatch s (masterSlave s)
  | .resAirQuality1 => dispatch s (airQuality1 s)
  | .resAirQuality2 => dispatch s (airQuality2 s)
  | .resOutdoorTemp => dispatch s (outdoorTemp s)
  | .resSupplyTemp => dispatch s (supplyTemp s)
  | .resIndoorTemp => dispatch s indoorTemp
  | .resExhaustTemp => dispatch s exhaustTemp
  | .resSupplyFlow => dispatch s supplyFlow
  | .resExhaustFlow => dispatch s exhaustFlow
  | .resSupplyFanSpeed => dispatch s supplyFanSpeed
  | .resExhaustFanSpeed => dispatch s exhaustFanSpeed
  | .resOperationMode => dispatch s (operationMode s)
  | .resUnknown _ => dispatch s unknownChannel
  | .illegal _ => .error .illegalCommand

/-- The result that an outcome puts on `rsp`. -/
def delivered : Except ErrKind Result → Result
  | .ok r => r
  | .error k => .error k

@[simp] theorem delivered_ok (r : Result) : delivered (.ok r) = r := rfl
@[simp] theorem delivered_error (k : ErrKind) : delivered (.error k) = .error k := rfl

theorem deliver_eq_delivered (o : Except ErrKind Result) (s : State) :
    deliver o s = { s with rsp := (delivered o).pack } := by
  cases o <;> rfl

/-- Every instruction answers a next state: its outcome delivered, nothing else changed. -/
theorem exec_eq (i : Instr) (s : State) :
    exec i s = .next { s with rsp := (delivered (outcomeOf i s)).pack } := by
  rw [← deliver_eq_delivered]; cases i <;> rfl

/-- Every step answers a next state. -/
theorem step_eq (s : State) :
    step s = .next { s with rsp := (delivered (outcomeOf (decode s.cmd) s)).pack } :=
  exec_eq _ s

end Sys2Proof.Machine
end

