-- ==== Sys2Proof/Laws/Memory.lean ====
section
/-! SUPPORT. The telegram's bytes: every memory operation keeps the canonical form; what is read after a byte is
driven; what the bytes of a port word read as. -/

namespace Sys2Proof.Machine

theorem Memory.wfFrom_mono (m : Memory) {lo lo' : Nat} (h : lo ≤ lo') (hm : Memory.wfFrom lo' m = true) :
    Memory.wfFrom lo m = true := by
  cases m with
  | nil => rfl
  | cons c m =>
    simp only [Memory.wfFrom, Bool.and_eq_true, decide_eq_true_eq] at hm ⊢
    exact ⟨⟨⟨by omega, hm.1.1.2⟩, hm.1.2⟩, hm.2⟩

theorem Memory.wfFrom_cons (lo a : Nat) (v : Byte) (m : Memory) :
    Memory.wfFrom lo ((a, v) :: m) = true ↔
      lo ≤ a ∧ a < 16 ∧ v ≠ 0#8 ∧ Memory.wfFrom (a + 1) m = true := by
  simp only [Memory.wfFrom, Bool.and_eq_true, decide_eq_true_eq, bne_iff_ne, and_assoc]
  exact Iff.rfl

/-- An address below the first cell is unlisted. -/
theorem Memory.read_below (m : Memory) {lo a : Nat} (hm : Memory.wfFrom lo m = true) (h : a < lo) :
    Memory.read m a = 0#8 := by
  induction m generalizing lo with
  | nil => rfl
  | cons c m ih =>
    obtain ⟨b, v⟩ := c
    obtain ⟨h1, -, -, h4⟩ := (Memory.wfFrom_cons ..).1 hm
    have : b ≠ a := by omega
    simpa [Memory.read, this] using ih h4 (by omega)

theorem Memory.setCell_wfFrom (m : Memory) {lo a : Nat} (v : Byte) (hm : Memory.wfFrom lo m = true)
    (hlo : lo ≤ a) (ha : a < 16) : Memory.wfFrom lo (Memory.setCell m a v) = true := by
  induction m generalizing lo with
  | nil =>
    by_cases hv : v = 0#8
    · simp [Memory.setCell, Memory.unlisted, hv, Memory.wfFrom]
    · simp only [Memory.setCell, Memory.unlisted, hv, if_false, Memory.wfFrom_cons]
      exact ⟨hlo, ha, hv, rfl⟩
  | cons c m ih =>
    obtain ⟨b, u⟩ := c
    have hm' := hm
    obtain ⟨h1, h2, h3, h4⟩ := (Memory.wfFrom_cons ..).1 hm
    rcases lt_trichotomy a b with hab | hab | hab
    · by_cases hv : v = 0#8
      · simpa [Memory.setCell, Memory.unlisted, hab, hv] using hm
      · simp only [Memory.setCell, Memory.unlisted, hab, hv, if_true, if_false, Memory.wfFrom_cons]
        exact ⟨hlo, ha, hv, by omega, h2, h3, h4⟩
    · subst hab
      by_cases hv : v = 0#8
      · simpa [Memory.setCell, Memory.unlisted, hv] using Memory.wfFrom_mono m (by omega) h4
      · simp only [Memory.setCell, Memory.unlisted, lt_irrefl, hv, if_true, if_false, Memory.wfFrom_cons]
        exact ⟨hlo, ha, hv, h4⟩
    · have h5 : ¬ a < b := by omega
      have h6 : a ≠ b := by omega
      simp only [Memory.setCell, h5, h6, if_false, Memory.wfFrom_cons]
      exact ⟨h1, h2, h3, ih h4 (by omega)⟩

/-- Driving a byte keeps the canonical form. -/
theorem Memory.drive_wf (m : Memory) (a : Nat) (v : Byte) (hm : Memory.wf m = true) :
    Memory.wf (Memory.drive m a v) = true := by
  unfold Memory.drive
  split
  · next h => exact Memory.setCell_wfFrom m v hm (Nat.zero_le a) h
  · exact hm

theorem Memory.ofPortFrom_wf (d : PortData) (n : Nat) {lo : Nat} (h : lo + n ≤ 16) :
    Memory.wfFrom lo (Memory.ofPortFrom d lo n) = true := by
  induction n generalizing lo with
  | zero => rfl
  | succ n ih =>
    by_cases hv : portByte d lo = 0#8
    · simp only [Memory.ofPortFrom, Memory.unlisted, hv, if_true]
      exact Memory.wfFrom_mono _ (Nat.le_succ lo) (ih (by omega))
    · simp only [Memory.ofPortFrom, Memory.unlisted, hv, if_false, Memory.wfFrom_cons]
      exact ⟨le_refl lo, by omega, hv, ih (by omega)⟩

/-- The bytes of a port word are in canonical form. -/
theorem Memory.ofPort_wf (d : PortData) : Memory.wf (Memory.ofPort d) = true :=
  Memory.ofPortFrom_wf d 16 (le_refl 16)

/-- The telegram at reset is in canonical form. -/
theorem reset_tg_wf : Memory.wf State.reset.tg = true := rfl

theorem Memory.read_setCell (m : Memory) {lo a : Nat} (v : Byte) (hm : Memory.wfFrom lo m = true)
    (b : Nat) : Memory.read (Memory.setCell m a v) b = if a = b then v else Memory.read m b := by
  induction m generalizing lo with
  | nil =>
    by_cases hv : v = 0#8 <;> by_cases hb : a = b <;>
      simp [Memory.setCell, Memory.read, Memory.unlisted, hv, hb]
  | cons c m ih =>
    obtain ⟨e, u⟩ := c
    obtain ⟨h1, h2, h3, h4⟩ := (Memory.wfFrom_cons ..).1 hm
    have below : ∀ x, x ≤ e → Memory.read m x = 0#8 := fun x hx => Memory.read_below m h4 (by omega)
    rcases lt_trichotomy a e with hae | hae | hae
    · by_cases hv : v = 0#8
      · by_cases hb : a = b
        · subst hb
          have : e ≠ a := by omega
          simp [Memory.setCell, Memory.read, Memory.unlisted, hae, hv, this, below a (by omega)]
        · simp [Memory.setCell, Memory.unlisted, hae, hv, hb]
      · simp only [Memory.setCell, Memory.unlisted, hae, hv, if_true, if_false]
        rfl
    · subst hae
      by_cases hv : v = 0#8
      · by_cases hb : a = b
        · subst hb; simp [Memory.setCell, Memory.unlisted, hv, below a (le_refl a)]
        · simp [Memory.setCell, Memory.read, Memory.unlisted, hv, hb]
      · by_cases hb : a = b <;> simp [Memory.setCell, Memory.read, Memory.unlisted, hv, hb]
    · have h5 : ¬ a < e := by omega
      have h6 : a ≠ e := by omega
      by_cases hb : e = b
      · subst hb; simp [Memory.setCell, Memory.read, h5, h6]
      · simp [Memory.setCell, Memory.read, h5, h6, hb, ih h4]

/-- A byte that the host has driven reads as driven, and every other byte reads as before. -/
theorem Memory.read_drive (m : Memory) {a : Nat} (v : Byte) (hm : Memory.wf m = true) (ha : a < 16) (b : Nat) :
    Memory.read (Memory.drive m a v) b = if a = b then v else Memory.read m b := by
  simp [Memory.drive, Config.tgMax, ha, Memory.read_setCell m v hm]

theorem Memory.read_ofPortFrom (d : PortData) (n : Nat) (lo a : Nat) :
    Memory.read (Memory.ofPortFrom d lo n) a = if lo ≤ a ∧ a < lo + n then portByte d a else 0#8 := by
  induction n generalizing lo with
  | zero =>
    have : ¬ (lo ≤ a ∧ a < lo) := by omega
    simp [Memory.ofPortFrom, Memory.read, Memory.unlisted, this]
  | succ n ih =>
    by_cases hv : portByte d lo = 0#8
    · simp only [Memory.ofPortFrom, Memory.unlisted, hv, if_true, ih]
      by_cases hl : lo = a
      · subst hl; simp [hv]
      · have : (lo + 1 ≤ a ∧ a < lo + 1 + n) ↔ (lo ≤ a ∧ a < lo + (n + 1)) := by omega
        rw [if_congr this rfl rfl]
    · simp only [Memory.ofPortFrom, Memory.unlisted, hv, if_false, Memory.read, ih]
      by_cases hl : lo = a
      · subst hl; simp
      · have : (lo + 1 ≤ a ∧ a < lo + 1 + n) ↔ (lo ≤ a ∧ a < lo + (n + 1)) := by omega
        rw [if_neg hl, if_congr this rfl rfl]

end Sys2Proof.Machine
end

