-- ==== Sys2Proof/Laws/Outcomes.lean ====
section
/-! SUPPORT. The outcome of each reading operation as one equation over the telegram, and the fields of a response
word: what later proofs cite instead of unfolding a meaning or `pack`. -/

namespace Sys2Proof.Machine

/-- `exec` from an outcome equation. -/
theorem exec_of_outcome {i : Instr} {s : State} {r : Except ErrKind Result} (h : outcomeOf i s = r) :
    exec i s = .next { s with rsp := (delivered r).pack } := by rw [exec_eq, h]

/-- `step` from what the command word decodes to. -/
theorem step_of_decode {s : State} {i : Instr} (h : decode s.cmd = i) :
    step s = .next { s with rsp := (delivered (outcomeOf i s)).pack } := by rw [step_eq, h]

theorem readBit_eq (s : State) (boff : BitVec 4) (bit : BitVec 3) :
    readBit s boff bit = if boff.toNat < s.len
      then .ok (.value .raw (bitValue (s.byte boff.toNat) bit.toNat)) else .error .bufferBounds := by
  simp only [readBit, byteAddress, bitOffset, memRead_one]
  split
  · simp only [ok_bind, bitAt_byte]; rfl
  · rfl

theorem readMasked_eq (s : State) (boff : BitVec 4) (mask : BitVec 8) :
    readMasked s boff mask = if boff.toNat < s.len
      then .ok (.value .raw ((s.byte boff.toNat &&& mask).toNat : Int)) else .error .bufferBounds := by
  simp only [readMasked, byteAddress, maskPattern, memRead_one]
  split <;> rfl

theorem readRange_eq (s : State) (boff lsb : BitVec 4) (width : BitVec 5) :
    readRange s boff lsb width = if boff.toNat < s.len
      then .ok (.value .raw (((s.byte boff.toNat).toNat / 2 ^ lsb.toNat % 2 ^ width.toNat : Nat) : Int))
      else .error .bufferBounds := by
  simp only [readRange, byteAddress, fieldOffset, fieldWidth, memRead_one, bitRange_eq]
  split <;> rfl

theorem readRangeOfPair_eq (s : State) (boff lsb : BitVec 4) (width : BitVec 5) :
    readRangeOfPair s boff lsb width = if boff.toNat + 1 < s.len
      then .ok (.value .raw ((((s.byte boff.toNat).toNat * 256 + (s.byte (boff.toNat + 1)).toNat)
        / 2 ^ lsb.toNat % 2 ^ width.toNat : Nat) : Int))
      else .error .bufferBounds := by
  simp only [readRangeOfPair, byteAddress, fieldOffset, fieldWidth, memRead_two, bitRange_eq]
  split <;> rfl

theorem flag_eq (s : State) (a k : Nat) (u : PhysUnit) :
    flag s a k u = if a < s.len then .ok (.value u (bitValue (s.byte a) k)) else .error .bufferBounds := by
  simp only [flag, memRead_one]
  split
  · simp only [ok_bind, bitAt_byte]; rfl
  · rfl

theorem airQuality_eq (s : State) (a : Nat) :
    airQuality s a = if a < s.len then .ok (.value .percent (((s.byte a).toNat % 128 : Nat) : Int))
      else .error .bufferBounds := by
  simp only [airQuality, memRead_one]
  split
  · simp only [ok_bind, low7_eq]; rfl
  · rfl

/-- Bits 7:1 of a byte, as R126 writes them. -/
theorem high7_eq {v : Nat} (h : v < 256) : (v &&& 0xFE) >>> 1 = v / 2 := by
  rw [Nat.shiftRight_and_distrib, Nat.shiftRight_eq_div_pow]
  show v / 2 &&& (2 ^ 7 - 1) = _
  rw [Nat.and_two_pow_sub_one_eq_mod]; omega

/-- The OR of R127 is a sum. -/
theorem combined13_eq (x : Nat) {y : Nat} (h : y < 256) :
    (x &&& 0x7F) <<< 6 ||| y >>> 2 = x % 128 * 64 + y / 4 := by
  rw [low7_eq, Nat.shiftRight_eq_div_pow, Nat.shiftLeft_eq]
  have : y / 2 ^ 2 < 2 ^ 6 := by omega
  rw [Nat.mul_comm, ← Nat.two_pow_add_eq_or_of_lt this]; omega

theorem outdoorTemp_eq (s : State) :
    outdoorTemp s = if 5 < s.len then .ok (.value .celsius (((s.byte 5).toNat / 2 : Nat) - 64))
      else .error .bufferBounds := by
  simp only [outdoorTemp, memRead_one]
  split
  · simp only [ok_bind, high7_eq (byte_lt s 5)]; rfl
  · rfl

theorem supplyTemp_eq (s : State) :
    supplyTemp s = if 6 < s.len
      then .ok (.value .celsius (((s.byte 5).toNat % 128 * 64 + (s.byte 6).toNat / 4 : Nat) - 64))
      else .error .bufferBounds := by
  simp only [supplyTemp, memRead_two, combined13_eq _ (byte_lt s 6)]
  by_cases h : 6 < s.len <;> simp [h, lessOffset]

theorem readOperationMode_of_pos {s : State} (h : 0 < s.len) :
    readOperationMode s = match operationModeOfCode ((s.byte 0).toNat % 16) with
      | some m => .ok (.value .enumOpMode m.ordinal)
      | none => .error .invalidEnumCode := by
  simp only [readOperationMode, memRead_one_of_lt h, ok_bind, decodeOperationMode_eq]
  cases operationModeOfCode ((s.byte 0).toNat % 16) <;> rfl

theorem readOperationMode_of_empty {s : State} (h : s.len = 0) :
    readOperationMode s = .error .bufferBounds := by
  simp only [readOperationMode, memRead_one_of_ge (show s.len ≤ 0 by omega)]; rfl

theorem readMessageType_of_pos {s : State} (h : 0 < s.len) :
    readMessageType s = if (s.byte 0).toNat < 128
      then .ok (.value .enumMsgType (((s.byte 0).toNat / 32 : Nat) : Int)) else .error .invalidEnumCode := by
  have hb := byte_lt s 0
  simp only [readMessageType, memRead_one_of_lt h, ok_bind, decodeMessageType_eq hb]
  generalize (s.byte 0).toNat = b at *
  have : b / 32 < 8 := by omega
  generalize hq : b / 32 = q at *
  interval_cases q <;> (repeat' split) <;> first | rfl | omega

theorem readMessageType_of_empty {s : State} (h : s.len = 0) : readMessageType s = .error .bufferBounds := by
  simp only [readMessageType, memRead_one_of_ge (show s.len ≤ 0 by omega)]; rfl

theorem bitValue_range (b : Byte) (k : Nat) : 0 ≤ bitValue b k ∧ bitValue b k ≤ 1 := by
  unfold bitValue; split <;> simp

/-- The response word as a number. -/
theorem responseWord_toNat (t : Tag) (e : BitVec 2) (u : BitVec 4) (v : BitVec 20) :
    (responseWord t e u v).toNat = t.code.toNat * 2 ^ 30 + e.toNat * 2 ^ 28 + u.toNat * 2 ^ 24 + v.toNat := by
  simp only [responseWord, append_toNat, BitVec.toNat_ofNat]
  omega

/-- Reading the five fields of a response word back. -/
theorem responseWord_fields (t : Tag) (e : BitVec 2) (u : BitVec 4) (v : BitVec 20) :
    tagField (responseWord t e u v) = t.code ∧ errField (responseWord t e u v) = e ∧
      unitField (responseWord t e u v) = u ∧ zeroField (responseWord t e u v) = 0 ∧
      valField (responseWord t e u v) = v := by
  have hw := responseWord_toNat t e u v
  have h1 := t.code.isLt; have h2 := e.isLt; have h3 := u.isLt; have h4 := v.isLt
  refine ⟨?_, ?_, ?_, ?_, ?_⟩ <;> apply BitVec.eq_of_toNat_eq <;>
    simp only [tagField, errField, unitField, zeroField, valField, BitVec.extractLsb,
      BitVec.extractLsb'_toNat, Nat.shiftRight_eq_div_pow, hw] <;> simp <;> omega

/-- A value of 20 signed bits survives its packing. -/
theorem toInt_ofInt_val {v : Int} (h1 : -(2 ^ 19) ≤ v) (h2 : v < 2 ^ 19) : (BitVec.ofInt 20 v).toInt = v := by
  rw [BitVec.toInt_ofInt]
  rw [Int.bmod_eq_of_le] <;> omega

theorem unitOfCode_code (u : PhysUnit) : unitOfCode u.code = some u := by cases u <;> rfl

end Sys2Proof.Machine
end

