-- ==== Sys2Proof/Laws/PerInstr.lean ====
section
/-! SUPPORT. Statements made for every constructor of Instr. EncodingMatchesRow: the encoding of an instruction
selects the instruction's own row of the opcode table (30_encoding.md R64). -/

namespace Sys2Proof.Laws

/-- A bit of a word as a quotient and a remainder. -/
theorem getElem_eq_decide (w : Command) (j : Nat) (h : j < 16) :
    w[j] = decide (w.toNat / 2 ^ j % 2 = 1) := by
  rw [← BitVec.getLsbD_eq_getElem, BitVec.getLsbD, Nat.testBit_eq_decide_div_mod_eq]

/-- The encoding of `i` selects a row of the table, and that row is `i`'s own. -/
def EncodingMatchesRow.Statement (i : Instr) : Prop :=
  ∃ r ∈ opcodeTable, r.order = i.tableOrder ∧ r.selects (encode i) = true

theorem EncodingMatchesRow.bit (boff : BitVec 4) (bit : BitVec 3) :
    EncodingMatchesRow.Statement (.bit boff bit) := by
  refine ⟨⟨1, "BIT", 0xE1F8, 0x0000⟩, by decide, rfl, ?_⟩
  simp only [OpcodeRow.selects, beq_iff_eq]
  ext j hj
  rw [BitVec.getElem_and, getElem_eq_decide _ j hj, encode_bit_toNat]
  interval_cases j <;> simp <;> omega

theorem EncodingMatchesRow.msk (boff : BitVec 4) (mask : BitVec 8) :
    EncodingMatchesRow.Statement (.msk boff mask) := by
  refine ⟨⟨2, "MSK", 0xE100, 0x2000⟩, by decide, rfl, ?_⟩
  simp only [OpcodeRow.selects, beq_iff_eq]
  ext j hj
  rw [BitVec.getElem_and, getElem_eq_decide _ j hj, encode_msk_toNat]
  interval_cases j <;> simp <;> omega

theorem EncodingMatchesRow.ext (boff lsb : BitVec 4) (width : BitVec 5) :
    EncodingMatchesRow.Statement (.ext boff lsb width) := by
  refine ⟨⟨3, "EXT", 0xE000, 0x4000⟩, by decide, rfl, ?_⟩
  simp only [OpcodeRow.selects, beq_iff_eq]
  ext j hj
  rw [BitVec.getElem_and, getElem_eq_decide _ j hj, encode_ext_toNat]
  interval_cases j <;> simp <;> omega

theorem EncodingMatchesRow.ext2 (boff lsb : BitVec 4) (width : BitVec 5) :
    EncodingMatchesRow.Statement (.ext2 boff lsb width) := by
  refine ⟨⟨4, "EXT2", 0xE000, 0x6000⟩, by decide, rfl, ?_⟩
  simp only [OpcodeRow.selects, beq_iff_eq]
  ext j hj
  rw [BitVec.getElem_and, getElem_eq_decide _ j hj, encode_ext2_toNat]
  interval_cases j <;> simp <;> omega

theorem EncodingMatchesRow.mtdec : EncodingMatchesRow.Statement .mtdec := by
  unfold EncodingMatchesRow.Statement; decide

theorem EncodingMatchesRow.omdec : EncodingMatchesRow.Statement .omdec := by
  unfold EncodingMatchesRow.Statement; decide

theorem EncodingMatchesRow.resSafetyMode : EncodingMatchesRow.Statement .resSafetyMode := by
  unfold EncodingMatchesRow.Statement; decide

theorem EncodingMatchesRow.resBypassOpened : EncodingMatchesRow.Statement .resBypassOpened := by
  unfold EncodingMatchesRow.Statement; decide

theorem EncodingMatchesRow.resSupplyFlapOpened : EncodingMatchesRow.Statement .resSupplyFlapOpened := by
  unfold EncodingMatchesRow.Statement; decide

theorem EncodingMatchesRow.resExhaustFlapOpened : EncodingMatchesRow.Statement .resExhaustFlapOpened := by
  unfold EncodingMatchesRow.Statement; decide

theorem EncodingMatchesRow.resDefrostMode : EncodingMatchesRow.Statement .resDefrostMode := by
  unfold EncodingMatchesRow.Statement; decide

theorem EncodingMatchesRow.resCoolingProtection : EncodingMatchesRow.Statement .resCoolingProtection := by
  unfold EncodingMatchesRow.Statement; decide

theorem EncodingMatchesRow.resOutdoorHeater : EncodingMatchesRow.Statement .resOutdoorHeater := by
  unfold EncodingMatchesRow.Statement; decide

theorem EncodingMatchesRow.resSupplyHeater : EncodingMatchesRow.Statement .resSupplyHeater := by
  unfold EncodingMatchesRow.Statement; decide

theorem EncodingMatchesRow.resDrainHeater : EncodingMatchesRow.Statement .resDrainHeater := by
  unfold EncodingMatchesRow.Statement; decide

theorem EncodingMatchesRow.resTimerMode : EncodingMatchesRow.Statement .resTimerMode := by
  unfold EncodingMatchesRow.Statement; decide

theorem EncodingMatchesRow.resFilterMaintenance : EncodingMatchesRow.Statement .resFilterMaintenance := by
  unfold EncodingMatchesRow.Statement; decide

theorem EncodingMatchesRow.resWeeklyTimer : EncodingMatchesRow.Statement .resWeeklyTimer := by
  unfold EncodingMatchesRow.Statement; decide

theorem EncodingMatchesRow.resRoomTempControl : EncodingMatchesRow.Statement .resRoomTempControl := by
  unfold EncodingMatchesRow.Statement; decide

theorem EncodingMatchesRow.resMasterSlave : EncodingMatchesRow.Statement .resMasterSlave := by
  unfold EncodingMatchesRow.Statement; decide

theorem EncodingMatchesRow.resAirQuality1 : EncodingMatchesRow.Statement .resAirQuality1 := by
  unfold EncodingMatchesRow.Statement; decide

theorem EncodingMatchesRow.resAirQuality2 : EncodingMatchesRow.Statement .resAirQuality2 := by
  unfold EncodingMatchesRow.Statement; decide

theorem EncodingMatchesRow.resOutdoorTemp : EncodingMatchesRow.Statement .resOutdoorTemp := by
  unfold EncodingMatchesRow.Statement; decide

theorem EncodingMatchesRow.resSupplyTemp : EncodingMatchesRow.Statement .resSupplyTemp := by
  unfold EncodingMatchesRow.Statement; decide

theorem EncodingMatchesRow.resIndoorTemp : EncodingMatchesRow.Statement .resIndoorTemp := by
  unfold EncodingMatchesRow.Statement; decide

theorem EncodingMatchesRow.resExhaustTemp : EncodingMatchesRow.Statement .resExhaustTemp := by
  unfold EncodingMatchesRow.Statement; decide

theorem EncodingMatchesRow.resSupplyFlow : EncodingMatchesRow.Statement .resSupplyFlow := by
  unfold EncodingMatchesRow.Statement; decide

theorem EncodingMatchesRow.resExhaustFlow : EncodingMatchesRow.Statement .resExhaustFlow := by
  unfold EncodingMatchesRow.Statement; decide

theorem EncodingMatchesRow.resSupplyFanSpeed : EncodingMatchesRow.Statement .resSupplyFanSpeed := by
  unfold EncodingMatchesRow.Statement; decide

theorem EncodingMatchesRow.resExhaustFanSpeed : EncodingMatchesRow.Statement .resExhaustFanSpeed := by
  unfold EncodingMatchesRow.Statement; decide

theorem EncodingMatchesRow.resOperationMode : EncodingMatchesRow.Statement .resOperationMode := by
  unfold EncodingMatchesRow.Statement; decide

theorem EncodingMatchesRow.resUnknown (chan : BitVec 8) :
    EncodingMatchesRow.Statement (.resUnknown chan) := by
  refine ⟨⟨32, "RES.UNKNOWN", 0xFF00, 0xC000⟩, by decide, rfl, ?_⟩
  simp only [OpcodeRow.selects, beq_iff_eq]
  ext j hj
  rw [BitVec.getElem_and, getElem_eq_decide _ j hj, encode, formatC_toNat]
  interval_cases j <;> simp <;> omega

theorem EncodingMatchesRow.illegal (word : Command) : EncodingMatchesRow.Statement (.illegal word) := by
  refine ⟨⟨33, "ILLEGAL", 0x0000, 0x0000⟩, by decide, rfl, ?_⟩
  simp [OpcodeRow.selects]

end Sys2Proof.Laws
end

