-- ==== Sys2Proof/Tests/Slice0.lean ====
section
/-! SUPPORT. Tests by evaluation: ill-formed terms, one word written out per row, one step per row on the spec's example
telegram, the memory and the assembler, and for each obligation that has hypotheses a witness that meets them.
Expected values are the spec's own: the examples of the rules, 30_encoding.md R61 to R78, 95_test_vectors.md. -/

namespace Sys2Proof.Tests
open Sys2Proof Sys2Proof.Machine

/-! The helpers: a telegram of given bytes, the example telegram TA (40_bitfield_reader.md), and the response. -/

def cellsFrom : Nat → List Nat → Memory
  | _, [] => []
  | a, b :: bs => if b = 0 then cellsFrom (a + 1) bs else (a, BitVec.ofNat 8 b) :: cellsFrom (a + 1) bs

def telegram (bytes : List Nat) (cmd : Command) : State :=
  { tg := cellsFrom 0 bytes, tgLen := BitVec.ofNat 5 bytes.length, cmd := cmd, rsp := 0 }

def ta (cmd : Command) : State :=
  telegram [0x4B, 0x03, 0xA5, 0xE4, 0x9C, 0xB7, 0x5A, 0, 0, 0, 0, 0, 0, 0] cmd

/-- A BASIC_STATUS telegram of a given length, byte 0 the lowest of its range. -/
def basic (n : Nat) : State := telegram (0x40 :: List.replicate (n - 1) 0) 0

def response (o : Host.Outcome State Fault Refusal) : Option Response :=
  match o with
  | .next t => some t.rsp
  | .fault _ => none
  | .refused _ => none

/-! WellFormed refuses the terms that no word spells (R64, R66). -/

theorem test_wf_refuses_recognised_channel_as_unknown :
    Instr.wellFormed (.resUnknown 24) = false ∧ Instr.wellFormed (.resUnknown 0) = false := by decide
theorem test_wf_refuses_legal_words_as_illegal :
    Instr.wellFormed (.illegal 0x0007) = false ∧ Instr.wellFormed (.illegal 0x20FF) = false ∧
      Instr.wellFormed (.illegal 0x5FFF) = false ∧ Instr.wellFormed (.illegal 0x7FFF) = false ∧
      Instr.wellFormed (.illegal 0x8000) = false ∧ Instr.wellFormed (.illegal 0xA000) = false ∧
      Instr.wellFormed (.illegal 0xC0FF) = false := by decide
theorem test_wf_accepts_each_case_of_illegal :
    Instr.wellFormed (.illegal 0xE000) = true ∧ Instr.wellFormed (.illegal 0x0008) = true ∧
      Instr.wellFormed (.illegal 0x2100) = true ∧ Instr.wellFormed (.illegal 0x8001) = true ∧
      Instr.wellFormed (.illegal 0xB000) = true ∧ Instr.wellFormed (.illegal 0xC100) = true := by decide

/-! Decoding: for each row a word written out from the formats of R61 and the codes of R63 and R74. -/

/-- op 000, boff 1011, 000000, bit 101. -/
theorem test_decode_bit : decode 0b0001011000000101#16 = .bit 0b1011 0b101 := by decide
/-- op 001, boff 1011, 0, mask 10110001. -/
theorem test_decode_msk : decode 0b0011011010110001#16 = .msk 0b1011 0b10110001 := by decide
/-- op 010, boff 1011, lsb 0110, width 10011. -/
theorem test_decode_ext : decode 0b0101011011010011#16 = .ext 0b1011 0b0110 0b10011 := by decide
/-- op 011, boff 1011, lsb 0110, width 10011. -/
theorem test_decode_ext2 : decode 0b0111011011010011#16 = .ext2 0b1011 0b0110 0b10011 := by decide
/-- op 100. -/
theorem test_decode_mtdec : decode 0b1000000000000000#16 = .mtdec := by decide
/-- op 101. -/
theorem test_decode_omdec : decode 0b1010000000000000#16 = .omdec := by decide
theorem test_decode_resSafetyMode : decode 0b1100000000000000#16 = .resSafetyMode := by decide
theorem test_decode_resBypassOpened : decode 0b1100000000000001#16 = .resBypassOpened := by decide
theorem test_decode_resSupplyFlapOpened : decode 0b1100000000000010#16 = .resSupplyFlapOpened := by decide
theorem test_decode_resExhaustFlapOpened : decode 0b1100000000000011#16 = .resExhaustFlapOpened := by decide
theorem test_decode_resDefrostMode : decode 0b1100000000000100#16 = .resDefrostMode := by decide
theorem test_decode_resCoolingProtection : decode 0b1100000000000101#16 = .resCoolingProtection := by decide
theorem test_decode_resOutdoorHeater : decode 0b1100000000000110#16 = .resOutdoorHeater := by decide
theorem test_decode_resSupplyHeater : decode 0b1100000000000111#16 = .resSupplyHeater := by decide
theorem test_decode_resDrainHeater : decode 0b1100000000001000#16 = .resDrainHeater := by decide
theorem test_decode_resTimerMode : decode 0b1100000000001001#16 = .resTimerMode := by decide
theorem test_decode_resFilterMaintenance : decode 0b1100000000001010#16 = .resFilterMaintenance := by decide
theorem test_decode_resWeeklyTimer : decode 0b1100000000001011#16 = .resWeeklyTimer := by decide
theorem test_decode_resRoomTempControl : decode 0b1100000000001100#16 = .resRoomTempControl := by decide
theorem test_decode_resMasterSlave : decode 0b1100000000001101#16 = .resMasterSlave := by decide
theorem test_decode_resAirQuality1 : decode 0b1100000000001110#16 = .resAirQuality1 := by decide
theorem test_decode_resAirQuality2 : decode 0b1100000000001111#16 = .resAirQuality2 := by decide
theorem test_decode_resOutdoorTemp : decode 0b1100000000010000#16 = .resOutdoorTemp := by decide
theorem test_decode_resSupplyTemp : decode 0b1100000000010001#16 = .resSupplyTemp := by decide
theorem test_decode_resIndoorTemp : decode 0b1100000000010010#16 = .resIndoorTemp := by decide
theorem test_decode_resExhaustTemp : decode 0b1100000000010011#16 = .resExhaustTemp := by decide
theorem test_decode_resSupplyFlow : decode 0b1100000000010100#16 = .resSupplyFlow := by decide
theorem test_decode_resExhaustFlow : decode 0b1100000000010101#16 = .resExhaustFlow := by decide
theorem test_decode_resSupplyFanSpeed : decode 0b1100000000010110#16 = .resSupplyFanSpeed := by decide
theorem test_decode_resExhaustFanSpeed : decode 0b1100000000010111#16 = .resExhaustFanSpeed := by decide
theorem test_decode_resOperationMode : decode 0b1100000000011000#16 = .resOperationMode := by decide
theorem test_decode_resUnknown : decode 0b1100000011111111#16 = .resUnknown 0b11111111 := by decide
/-- One word for each case of R66. -/
theorem test_decode_illegal :
    decode 0b1110000000000000#16 = .illegal 0xE000 ∧ decode 0b0000000100000000#16 = .illegal 0x0100 ∧
      decode 0b0010000100000000#16 = .illegal 0x2100 ∧ decode 0b1001000000000000#16 = .illegal 0x9000 ∧
      decode 0b1010000000000001#16 = .illegal 0xA001 ∧ decode 0b1101000000000000#16 = .illegal 0xD000 := by decide
theorem test_decodeTableWord :
    decodeTableWord 16 0x6A4D = some (.ext2 5 2 13) ∧ decodeTableWord 16 0x10000 = none ∧
      decodeTableWord 32 0x8000 = none := by decide
theorem test_encode_examples :
    encode (.bit 1 0) = 0x0200 ∧ encode (.msk 3 0x7F) = 0x267F ∧ encode (.ext 5 1 7) = 0x4A27 ∧
      encode (.ext2 13 0 16) = 0x7A10 := by decide

/-! One step per row: the example of the row's rule, on TA unless another telegram is named. -/

/-- R90: BIT 1, 0. -/
theorem test_step_bit : response (step (ta 0x0200)) = some 0x00000001#32 := by decide
/-- R90: BIT 14, 0. -/
theorem test_step_bit_out_of_bounds : response (step (ta 0x1C00)) = some 0xE0000000#32 := by decide
/-- R91: MSK 3, 0x7F. -/
theorem test_step_msk : response (step (ta 0x267F)) = some 0x00000064#32 := by decide
/-- R91: MSK 5, 0xFE gives 182. -/
theorem test_step_msk_unshifted : response (step (ta 0x2AFE)) = some 0x000000B6#32 := by decide
/-- R92: EXT 5, 1, 7. -/
theorem test_step_ext : response (step (ta 0x4A27)) = some 0x0000005B#32 := by decide
/-- R92: EXT 5, 4, 8 gives 11. -/
theorem test_step_ext_past_bit_7 : response (step (ta 0x4A88)) = some 0x0000000B#32 := by decide
/-- R93: EXT2 5, 2, 13. -/
theorem test_step_ext2 : response (step (ta 0x6A4D)) = some 0x00000DD6#32 := by decide
/-- R93: EXT2 13, 0, 16. -/
theorem test_step_ext2_second_byte_missing : response (step (ta 0x7A10)) = some 0xE0000000#32 := by decide
/-- R100. -/
theorem test_step_mtdec : response (step (ta 0x8000)) = some 0x07000002#32 := by decide
/-- R100: byte 0 = 0x80. -/
theorem test_step_mtdec_invalid :
    response (step (telegram [0x80] 0x8000)) = some 0xD0000000#32 := by decide
/-- R101. -/
theorem test_step_omdec : response (step (ta 0xA000)) = some 0x08000005#32 := by decide
/-- R101: byte 0 = 0x45. -/
theorem test_step_omdec_gap :
    response (step (telegram [0x45] 0xA000)) = some 0xD0000000#32 := by decide
/-- R110. -/
theorem test_step_resSafetyMode : response (step (ta 0xC000)) = some 0x01000000#32 := by decide
/-- R111. -/
theorem test_step_resBypassOpened : response (step (ta 0xC001)) = some 0x02000000#32 := by decide
/-- R112. -/
theorem test_step_resSupplyFlapOpened : response (step (ta 0xC002)) = some 0x02000001#32 := by decide
/-- R113. -/
theorem test_step_resExhaustFlapOpened : response (step (ta 0xC003)) = some 0x02000001#32 := by decide
/-- R114. -/
theorem test_step_resDefrostMode : response (step (ta 0xC004)) = some 0x01000001#32 := by decide
/-- R115. -/
theorem test_step_resCoolingProtection : response (step (ta 0xC005)) = some 0x01000000#32 := by decide
/-- R116. -/
theorem test_step_resOutdoorHeater : response (step (ta 0xC006)) = some 0x01000001#32 := by decide
/-- R117. -/
theorem test_step_resSupplyHeater : response (step (ta 0xC007)) = some 0x01000000#32 := by decide
/-- R118. -/
theorem test_step_resDrainHeater : response (step (ta 0xC008)) = some 0x01000000#32 := by decide
/-- R119. -/
theorem test_step_resTimerMode : response (step (ta 0xC009)) = some 0x01000001#32 := by decide
/-- R120. -/
theorem test_step_resFilterMaintenance : response (step (ta 0xC00A)) = some 0x01000000#32 := by decide
/-- R121. -/
theorem test_step_resWeeklyTimer : response (step (ta 0xC00B)) = some 0x01000001#32 := by decide
/-- R122. -/
theorem test_step_resRoomTempControl : response (step (ta 0xC00C)) = some 0x01000001#32 := by decide
/-- R123. -/
theorem test_step_resMasterSlave : response (step (ta 0xC00D)) = some 0x01000001#32 := by decide
/-- R124. -/
theorem test_step_resAirQuality1 : response (step (ta 0xC00E)) = some 0x03000064#32 := by decide
/-- R125. -/
theorem test_step_resAirQuality2 : response (step (ta 0xC00F)) = some 0x0300001C#32 := by decide
/-- R126. -/
theorem test_step_resOutdoorTemp : response (step (ta 0xC010)) = some 0x0400001B#32 := by decide
/-- R127. -/
theorem test_step_resSupplyTemp : response (step (ta 0xC011)) = some 0x04000D96#32 := by decide
/-- R128. -/
theorem test_step_resIndoorTemp : response (step (ta 0xC012)) = some 0x80000000#32 := by decide
/-- R129. -/
theorem test_step_resExhaustTemp : response (step (ta 0xC013)) = some 0x80000000#32 := by decide
/-- R130. -/
theorem test_step_resSupplyFlow : response (step (ta 0xC014)) = some 0x80000000#32 := by decide
/-- R131. -/
theorem test_step_resExhaustFlow : response (step (ta 0xC015)) = some 0x80000000#32 := by decide
/-- R132. -/
theorem test_step_resSupplyFanSpeed : response (step (ta 0xC016)) = some 0x80000000#32 := by decide
/-- R133. -/
theorem test_step_resExhaustFanSpeed : response (step (ta 0xC017)) = some 0x80000000#32 := by decide
/-- R134. -/
theorem test_step_resOperationMode : response (step (ta 0xC018)) = some 0x08000005#32 := by decide
/-- R143: RES 25. -/
theorem test_step_resUnknown : response (step (ta 0xC019)) = some 0x40000000#32 := by decide
/-- R66: the empty telegram included. -/
theorem test_step_illegal :
    response (step (telegram [] 0xE000)) = some 0xF0000000#32 := by decide
/-- R110: `len < 2`. -/
theorem test_step_resSafetyMode_short :
    response (step (telegram [0x40] 0xC000)) = some 0xE0000000#32 := by decide
/-- R124: byte 3 = 0xFF gives 127. -/
theorem test_step_resAirQuality1_unclamped :
    response (step (telegram [0x40, 0, 0, 0xFF] 0xC00E)) = some 0x0300007F#32 := by decide
/-- R126: byte 5 = 0x7F gives -1, `val` 0xFFFFF. -/
theorem test_step_resOutdoorTemp_minus_one :
    response (step (telegram [0x40, 0, 0, 0, 0, 0x7F] 0xC010)) = some 0x040FFFFF#32 := by decide
/-- R127: bytes 0x00, 0x00 give -64; R136: `val` 0xFFFC0. -/
theorem test_step_resSupplyTemp_least :
    response (step (telegram [0x40, 0, 0, 0, 0, 0, 0] 0xC011)) = some 0x040FFFC0#32 := by decide
/-- R127: `len` = 6. -/
theorem test_step_resSupplyTemp_byte_6_missing :
    response (step (telegram [0x40, 0, 0, 0, 0, 0xB7] 0xC011)) = some 0xE0000000#32 := by decide
/-- R134: the source's Scenario 2. -/
theorem test_step_resOperationMode_off :
    response (step (telegram [0x40] 0xC018)) = some 0x08000000#32 := by decide
/-- R142: UNDEFINED, not UNSUPPORTED and not BufferBounds. -/
theorem test_step_resIndoorTemp_extended_status :
    response (step (telegram [0x60] 0xC012)) = some 0x40000000#32 := by decide
/-- R144. -/
theorem test_step_resUnknown_invalid_message_type :
    response (step (telegram [0x80] 0xC0FF)) = some 0xD0000000#32 := by decide
/-- R41: `tg_len` = 31 means 16; byte 15 is there. -/
theorem test_len_saturates :
    State.len { ta 0 with tgLen := 31#5 } = 16 ∧ State.len { ta 0 with tgLen := 15#5 } = 15 := by decide
/-- R29: bytes at or above `len` are not seen. -/
theorem test_bytes_above_len_are_not_read :
    response (step { ta 0x2800 with tgLen := 4#5 }) = some 0xE0000000#32 := by decide
/-- A step changes `rsp` alone (R51). -/
theorem test_step_frame : step (ta 0xC011) = .next { ta 0xC011 with rsp := 0x04000D96#32 } := rfl
/-- The word placed by `withFetchWord` is the one that runs. -/
theorem test_withFetchWord : response (step (State.reset.withFetchWord 16 0xE000)) = some 0xF0000000#32 := by decide
theorem test_reset_answers_its_own_inputs : response (step State.reset) = some State.reset.rsp := by decide

/-! The telegram as a memory. -/

theorem test_memory_keeps_zero_unlisted :
    Memory.drive [(3, 7#8)] 3 0 = [] ∧ Memory.drive [] 16 1 = [] ∧
      Memory.drive [(3, 7#8)] 15 1 = [(3, 7#8), (15, 1#8)] := by decide
/-- R28: byte 0 is `tg_data[7:0]`, byte 15 is `tg_data[127:120]`. -/
theorem test_memory_packing :
    Memory.ofPort (0x80000000000000000000000000000340#128) = [(0, 0x40#8), (1, 0x03#8), (15, 0x80#8)] ∧
      Memory.toPort [(0, 0x40#8), (1, 0x03#8), (15, 0x80#8)] = 0x80000000000000000000000000000340#128 := by decide
theorem test_memory_wf_refuses :
    Memory.wf [(1, 1#8), (0, 1#8)] = false ∧ Memory.wf [(0, 0#8)] = false ∧ Memory.wf [(16, 1#8)] = false := by decide

/-! A session (R22, R192): a failed request and an answered one. -/

theorem test_session :
    serve [⟨0xE000, 0, 0⟩, ⟨0x0200, 2, 0x0340⟩] State.reset = [0xF0000000#32, 0x00000001#32] := by decide

/-! The assembler (R77, R78). -/

theorem test_assemble :
    assemble (.ext2 5 2 13) = some 0x6A4D ∧ assemble (.half 5) = some 0x6A10 ∧ assemble (.bit 16 0) = none ∧
      assemble (.word 0xE000) = some 0xE000 ∧ assemble (.word 0x0200) = none := by decide

theorem test_assembleText :
    assembleText "EXT2 5, 2, 13" = some 0x6A4D ∧ assembleText "  MSK 0b11 ,0x7F" = some 0x267F ∧
      assembleText "HALF 5" = some 0x6A10 ∧ assembleText "OMDEC" = some 0xA000 := by decide
theorem test_assembleText_channels :
    assembleText "RES SUPPLY_TEMP" = some 0xC011 ∧ assembleText "RES 17" = some 0xC011 ∧
      assembleText "RES 255" = some 0xC0FF ∧ assembleText "RES 256" = none := by decide
theorem test_assembleText_words :
    assembleText ".word 0xE123" = some 0xE123 ∧ assembleText ".word 0xffff" = some 0xFFFF ∧
       assembleText ".word 0xE0" = none ∧
      assembleText ".word 0x0200" = none ∧ assembleText "BIT 1" = none ∧ assembleText "BIT 16, 0" = none := by decide

/-! Reading responses (R70, R160). -/

theorem test_unpack :
    unpack 0x040FFFC0 = some (.value .celsius (-64)) ∧ unpack 0xE0000000 = some (.error .bufferBounds) ∧
      unpack 0x09000000 = none ∧ unpack 0x00100000 = none ∧ unpack 0xC0000000 = none := by decide

/-! Witnesses: for each obligation with hypotheses, states and operands that meet them, a boundary of each clause. -/

/-- Two telegrams that differ in bits that 20_memory.md R48 leaves unnamed: bit 4 of byte 0, bits 7:4 of byte 1, bits 1:0
of byte 6, byte 7. -/
def unnamedClear : State := telegram [0x4B, 0x03, 0, 0, 0, 0, 0x58, 0] 0
def unnamedSet : State := telegram [0x5B, 0xF3, 0, 0, 0, 0, 0x5B, 2] 0

theorem test_witness_DecodeInvertsEncode :
    Instr.wellFormed (.ext2 15 15 31) = true ∧ Instr.wellFormed (.resUnknown 25) = true ∧
      Instr.wellFormed (.illegal 0xE000) = true :=
  by decide
theorem test_witness_FirstMatchingRowIsTheDecodedRow :
    ∃ p ∈ opcodeTable, ∃ q ∈ opcodeTable, p.order < q.order ∧ p.selects 0xC018 = true ∧ q.selects 0xC018 = true :=
  ⟨⟨31, "RES.OPERATION_MODE", 0xFFFF, 0xC018⟩, by decide, ⟨32, "RES.UNKNOWN", 0xFF00, 0xC000⟩, by decide, by decide⟩
theorem test_witness_IllegalWordsAndOnlyTheseAnswerIllegalCommand :
    ∀ w ∈ [0xE000#16, 0x0008, 0x2100, 0x8001, 0xBFFF, 0xC100],
      ((w : Command).extractLsb' 13 3 = 7 ∨ (w.extractLsb' 13 3 = 0 ∧ w.extractLsb' 3 6 ≠ 0) ∨
      (w.extractLsb' 13 3 = 1 ∧ w.extractLsb' 8 1 ≠ 0) ∨
      ((w.extractLsb' 13 3 = 4 ∨ w.extractLsb' 13 3 = 5) ∧ w.extractLsb' 0 13 ≠ 0) ∨
      (w.extractLsb' 13 3 = 6 ∧ w.extractLsb' 8 5 ≠ 0)) :=
  by
  intro w h
  fin_cases h <;> decide
theorem test_witness_IllegalWordsAndOnlyTheseAnswerIllegalCommand_legal :
    ∀ w ∈ [0x0007#16, 0x20FF, 0x7FFF, 0x8000, 0xC0FF],
      ¬ ((w : Command).extractLsb' 13 3 = 7 ∨ (w.extractLsb' 13 3 = 0 ∧ w.extractLsb' 3 6 ≠ 0) ∨
      (w.extractLsb' 13 3 = 1 ∧ w.extractLsb' 8 1 ≠ 0) ∨
      ((w.extractLsb' 13 3 = 4 ∨ w.extractLsb' 13 3 = 5) ∧ w.extractLsb' 0 13 ≠ 0) ∨
      (w.extractLsb' 13 3 = 6 ∧ w.extractLsb' 8 5 ≠ 0)) :=
  by
  intro w h
  fin_cases h <;> decide
theorem test_witness_IllegalWordsAndOnlyTheseAnswerIllegalCommand_next :
    ∃ t, step (ta 0x0007) = .next t :=
  ⟨_, rfl⟩
theorem test_witness_AssemblerLinesSpellTheirCommands :
    (15 ≤ 15 ∧ 7 ≤ 7) ∧ (255 ≤ 255 ∧ 31 ≤ 31) ∧ (15 < 16 ∧ 7 < 8) ∧ (255 < 256 ∧ 31 < 32) ∧
      decode 0xE000 = .illegal 0xE000 ∧ decode 0xC0FF ≠ .illegal 0xC0FF :=
  by decide
theorem test_witness_PseudoInstructionsReadWhatTheySay :
    13 < (ta 0).len ∧ 12 + 1 < (ta 0).len ∧ ¬ 13 + 1 < (ta 0).len :=
  by decide
theorem test_witness_StepRunsTheDecodedCommand :
    Instr.wellFormed (.ext2 5 2 13) = true ∧ decode (ta 0x6A4D).cmd = .ext2 5 2 13 :=
  by decide
theorem test_witness_BitReadsOneBit :
    BitVec.toNat 13#4 < (ta 0).len ∧ (ta 0).len ≤ BitVec.toNat 14#4 ∧
      (ta 0x0207).cmd.extractLsb' 13 3 = 0 ∧ (ta 0x0207).cmd.extractLsb' 3 6 = 0 ∧
      (ta 0x0208).cmd.extractLsb' 13 3 = 0 ∧ (ta 0x0208).cmd.extractLsb' 3 6 ≠ 0 :=
  by decide
theorem test_witness_MskKeepsTheSelectedBitsInPlace :
    BitVec.toNat 13#4 < (ta 0).len ∧ (ta 0).len ≤ BitVec.toNat 14#4 ∧
      (ta 0x2000).cmd.extractLsb' 13 3 = 1 ∧ (ta 0x2000).cmd.extractLsb' 8 1 = 0 ∧
      (ta 0x2100).cmd.extractLsb' 13 3 = 1 ∧ (ta 0x2100).cmd.extractLsb' 8 1 ≠ 0 :=
  by decide
theorem test_witness_ExtShiftsABitRangeOfOneByteDown :
    BitVec.toNat 13#4 < (ta 0).len ∧ (ta 0).len ≤ BitVec.toNat 14#4 ∧
      BitVec.toNat 8#4 + BitVec.toNat 0#5 ≤ 8 ∧ BitVec.toNat 0#4 + BitVec.toNat 8#5 ≤ 8 ∧
      (ta 0x5FFF).cmd.extractLsb' 13 3 = 2 :=
  by decide
theorem test_witness_Ext2ShiftsABitRangeOfTheBigEndianPairDown :
    BitVec.toNat 12#4 + 1 < (ta 0).len ∧ (ta 0).len ≤ BitVec.toNat 13#4 + 1 ∧
      8 ≤ BitVec.toNat 8#4 ∧ BitVec.toNat 3#4 + BitVec.toNat 5#5 ≤ 8 ∧ (ta 0x6000).cmd.extractLsb' 13 3 = 3 :=
  by decide
theorem test_witness_MtdecClassifiesByteZero :
    (telegram [] 0).len = 0 ∧ (∀ b ∈ [0x00, 0x1F, 0x20, 0x3F, 0x40, 0x5F, 0x60, 0x7F, 0x80, 0xFF],
      0 < (telegram [b] 0).len ∧ ((telegram [b] 0).byte 0).toNat = b) ∧
      (ta 0x8000).cmd.extractLsb' 13 3 = 4 ∧ (ta 0x8001).cmd.extractLsb' 13 3 = 4 ∧
      valueOf (exec .mtdec (ta 0)) = some 2 ∧ valueOf (exec (.ext 0 5 3) (telegram [0x80] 0)) = some 4 :=
  by decide
theorem test_witness_OmdecMapsTheLowNibble :
    (telegram [] 0).len = 0 ∧ (∀ b ∈ [0x40, 0x44, 0x4B, 0x4E],
      0 < (telegram [b] 0).len ∧ ((telegram [b] 0).byte 0).toNat = b) ∧
      (∀ b ∈ [0x45, 0x4A, 0x4F], invalidModeNibble (telegram [b] 0)) ∧
      (ta 0xA000).cmd.extractLsb' 13 3 = 5 ∧ (ta 0xA001).cmd.extractLsb' 13 3 = 5 :=
  by decide
theorem test_witness_CodecsSucceedOnTheirTruthTables :
    0 < (telegram [0x45] 0).len ∧ invalidModeNibble (telegram [0x45] 0) ∧
      0 < (telegram [0x80] 0).len ∧ ¬ ((telegram [0x80] 0).byte 0).toNat < 0x80 :=
  by decide
theorem test_witness_OperationModeTableIsABijection :
    operationModeOfCode 14 = some .exhaustAirOnly ∧ 0 < (telegram [0x0E] 0).len :=
  by decide
theorem test_witness_FlagChannelsOfByteOne :
    basicStatus (basic 2) ∧ 1 < (basic 2).len ∧ basicStatus (basic 1) ∧ (basic 1).len ≤ 1 :=
  by decide
theorem test_witness_FlagChannelsOfByteTwo :
    basicStatus (basic 3) ∧ 2 < (basic 3).len ∧ basicStatus (basic 2) ∧ (basic 2).len ≤ 2 :=
  by decide
theorem test_witness_FlagChannelsOfBytesThreeAndFour :
    basicStatus (basic 4) ∧ 3 < (basic 4).len ∧ (basic 4).len ≤ 4 ∧ basicStatus (basic 3) ∧ (basic 3).len ≤ 3 ∧
      basicStatus (basic 5) ∧ 4 < (basic 5).len :=
  by decide
theorem test_witness_FlagChannelsAgreeWithBit :
    basicStatus (ta 0) ∧ basicStatus (telegram [0x5F] 0) :=
  by decide
theorem test_witness_AirQualityIsTheRawSevenBitNumber :
    basicStatus (basic 4) ∧ 3 < (basic 4).len ∧ (basic 4).len ≤ 4 ∧ basicStatus (basic 3) ∧ (basic 3).len ≤ 3 ∧
      basicStatus (basic 5) ∧ 4 < (basic 5).len :=
  by decide
theorem test_witness_OutdoorTemperatureIsSevenBitsLessSixtyFour :
    basicStatus (basic 6) ∧ 5 < (basic 6).len ∧ basicStatus (basic 5) ∧ (basic 5).len ≤ 5 ∧
      valueOf (exec .resOutdoorTemp (ta 0)) = some 27 :=
  by decide
theorem test_witness_SupplyTemperatureIsThirteenBitsLessSixtyFour :
    basicStatus (basic 7) ∧ 6 < (basic 7).len ∧ basicStatus (basic 6) ∧ (basic 6).len ≤ 6 ∧
      valueOf (exec .resSupplyTemp (ta 0)) = some 3478 :=
  by decide
theorem test_witness_UnsupportedChannelsNeverGiveAValue :
    basicStatus (basic 1) :=
  by decide
theorem test_witness_OperationModeChannelIsOmdecUnderBasicStatus :
    (∀ n ∈ [0x40, 0x41, 0x42, 0x43, 0x44, 0x4B, 0x4C, 0x4D, 0x4E, 0x45, 0x4F, 0x5F], basicStatus (telegram [n] 0)) ∧
      invalidModeNibble (telegram [0x4F] 0) ∧ (telegram [] 0).len = 0 ∧ otherMessageType (telegram [0x3F] 0) ∧
      invalidMessageType (telegram [0x80] 0) :=
  by decide
theorem test_witness_OperationModeChannelIsOmdecUnderBasicStatus_alone :
    ∃ s' t', isRes .resSafetyMode ∧ Instr.resSafetyMode ≠ .resOperationMode ∧
      (telegram [0x40, 8] 0).len = (telegram [0x4F, 8] 0).len ∧
      ((telegram [0x40, 8] 0).byte 0).toNat / 16 = ((telegram [0x4F, 8] 0).byte 0).toNat / 16 ∧
      (∀ a, 0 < a → (telegram [0x40, 8] 0).byte a = (telegram [0x4F, 8] 0).byte a) ∧
      exec .resSafetyMode (telegram [0x40, 8] 0) = .next s' ∧ exec .resSafetyMode (telegram [0x4F, 8] 0) = .next t' :=
  by
  refine ⟨_, _, by decide, by decide, by decide, by decide, fun a h => ?_, rfl, rfl⟩
  have h0 : ¬ 0 = a := by omega
  simp [telegram, cellsFrom, State.byte, Memory.read, h0]
theorem test_witness_UnknownChannelsAnswerUndefined :
    25 ≤ BitVec.toNat 25#8 ∧ 25 ≤ BitVec.toNat 255#8 ∧ basicStatus (basic 1) :=
  by decide
theorem test_witness_OtherMessageTypesAnswerUndefinedToEveryChannel :
    isRes .resOperationMode ∧ (∀ b ∈ [0x00, 0x1F, 0x20, 0x3F, 0x60, 0x7F], otherMessageType (telegram [b] 0)) :=
  by decide
theorem test_witness_InvalidMessageTypeFailsEveryChannel :
    isRes (.resUnknown 25) ∧ (∀ b ∈ [0x80, 0xFF], invalidMessageType (telegram [b] 0)) :=
  by decide
theorem test_witness_ResFollowsItsFiveSteps :
    Instr.wellFormed (.resUnknown 25) = true ∧ Instr.channelCode (.resUnknown 25) = some 25 ∧
      Instr.channelCode .resOperationMode = some 24 ∧
      (ta 0xC100).cmd.extractLsb' 13 3 = 6 ∧ (ta 0xC100).cmd.extractLsb' 8 5 ≠ 0 :=
  by decide
theorem test_witness_EmptyTelegramFailsEveryReadingOperation :
    (∀ w, Instr.mtdec ≠ .illegal w) ∧ (telegram [] 0).len = 0 :=
  ⟨fun _ => Instr.noConfusion, by decide⟩
theorem test_witness_OnlyTheModeChannelSeesTheLowNibble :
    ∃ s' t', isRes .resMasterSlave ∧ Instr.resMasterSlave ≠ .resOperationMode ∧
      (ta 0).len = { ta 0 with tg := (0, 0x50#8) :: (ta 0).tg.tail }.len ∧
      ((ta 0).byte 0).toNat / 32 = ({ ta 0 with tg := (0, 0x50#8) :: (ta 0).tg.tail }.byte 0).toNat / 32 ∧
      (∀ a, 0 < a → a < (ta 0).len → (ta 0).byte a = { ta 0 with tg := (0, 0x50#8) :: (ta 0).tg.tail }.byte a) ∧
      exec .resMasterSlave (ta 0) = .next s' ∧
      exec .resMasterSlave { ta 0 with tg := (0, 0x50#8) :: (ta 0).tg.tail } = .next t' :=
  by
  refine ⟨_, _, by decide, by decide, by decide, by decide, fun a h hl => ?_, rfl, rfl⟩
  have h14 : a < 14 := hl
  interval_cases a <;> rfl
theorem test_witness_UnnamedTelegramBitsAreIgnored :
    ∃ s' t', unnamedClear.len = unnamedSet.len ∧
      (unnamedClear.byte 0).toNat / 32 = (unnamedSet.byte 0).toNat / 32 ∧
      (unnamedClear.byte 0).toNat % 16 = (unnamedSet.byte 0).toNat % 16 ∧
      (unnamedClear.byte 1).toNat % 16 = (unnamedSet.byte 1).toNat % 16 ∧
      (∀ a, 2 ≤ a → a ≤ 5 → unnamedClear.byte a = unnamedSet.byte a) ∧
      (unnamedClear.byte 6).toNat / 4 = (unnamedSet.byte 6).toNat / 4 ∧
      exec .omdec unnamedClear = .next s' ∧
      exec .omdec unnamedSet = .next t' :=
  by
  refine ⟨_, _, by decide, by decide, by decide, by decide, fun a h h' => ?_, by decide, rfl, rfl⟩
  interval_cases a <;> rfl
theorem test_witness_BytesAtOrAboveTheLengthNeverMatter :
    (ta 0xC000).cmd = { ta 0xC000 with tgLen := 2#5 }.cmd ∧
      sameTelegram { telegram [0x40, 8, 1] 0xC000 with tgLen := 2#5 } (telegram [0x40, 8] 0xC000) :=
  ⟨rfl, by decide, fun a h => by
  have h2 : a < 2 := h
  interval_cases a <;> rfl⟩
theorem test_witness_LeastLengthsThatAvoidBufferBounds :
    isRes .resOutdoorTemp ∧ (∀ b ∈ [0x3F, 0x60], ¬ (0x40 ≤ ((telegram [b] 0).byte 0).toNat ∧ ((telegram [b] 0).byte 0).toNat ≤ 0x5F)) ∧
      (∀ b ∈ [0x40, 0x5F], 0x40 ≤ ((telegram [b] 0).byte 0).toNat ∧ ((telegram [b] 0).byte 0).toNat ≤ 0x5F) ∧
      Instr.channelCode .resIndoorTemp = some 18 ∧ 18 ≤ BitVec.toNat 18#8 ∧ 7 ≤ (basic 7).len :=
  by decide
theorem test_witness_UndefinedComesFromResAloneInTwoCases :
    Instr.wellFormed .resIndoorTemp = true ∧ Instr.wellFormed (.resUnknown 25) = true ∧
      resultOf (exec (.resUnknown 25) (basic 1)) = some .undefined ∧
      resultOf (exec .resIndoorTemp (telegram [0x7F] 0)) = some .undefined ∧
      otherMessageType (telegram [0x7F] 0) ∧ basicStatus (basic 1) :=
  by decide
theorem test_witness_UnsupportedComesFromSixChannelsAlone :
    Instr.wellFormed .resIndoorTemp = true ∧
      resultOf (exec .resIndoorTemp (basic 1)) = some .unsupported ∧
      Result.unsupported.pack = Result.unsupported.pack :=
  by decide
theorem test_witness_InvalidEnumCodeComesFromTheTwoCodecsAlone :
    resultOf (exec .mtdec (telegram [0x80] 0)) = some (.error .invalidEnumCode) ∧
      resultOf (exec .omdec (telegram [0x05] 0)) = some (.error .invalidEnumCode) ∧
      resultOf (exec .resOperationMode (telegram [0x4F] 0)) = some (.error .invalidEnumCode) :=
  by decide
theorem test_witness_EachOperationEndsOnlyInItsOutcomes :
    Instr.wellFormed (.bit 1 0) = true ∧ genericOffset (.bit 1 0) ≠ none ∧
      resultOf (exec (.bit 1 0) (ta 0)) = some (.value .raw 1) ∧
      resultOf (exec .mtdec (ta 0)) = some (.value .enumMsgType 2) ∧
      resultOf (exec .omdec (ta 0)) = some (.value .enumOpMode 5) ∧
      Instr.channelCode .resSupplyTemp = some 17 ∧
      resultOf (exec .resSupplyTemp (ta 0)) = some (.value .celsius 3478) ∧
      Instr.wellFormed (.illegal 0xE000) = true ∧
      resultOf (exec (.illegal 0xE000) (ta 0)) = some (.error .illegalCommand) :=
  by decide
theorem test_witness_ChannelValuesCarryTheirDeclaredUnit :
    Instr.channelCode .resAirQuality1 = some 14 ∧ resultOf (exec .resAirQuality1 (ta 0)) = some (.value .percent 100) :=
  by decide
theorem test_witness_ResponseWordHoldsItsResult :
    (-(2 ^ 19) ≤ (-524288 : Int) ∧ (-524288 : Int) < 2 ^ 19) ∧ (-(2 ^ 19) ≤ (524287 : Int) ∧ (524287 : Int) < 2 ^ 19) ∧
      Result.undefined.tag ≠ .error ∧ (Result.value .celsius 8127).reachable = true :=
  by
  refine ⟨by omega, by omega, by decide, by decide⟩
theorem test_witness_ResponseWordHoldsItsResult_constant :
    ∀ u v, Result.unsupported ≠ .value u v :=
  fun _ _ => Result.noConfusion
theorem test_witness_ResponsesCarryTheUnitCodesOfTheirProducers :
    (∃ t, exec (.bit 1 0) (ta 0) = .next t ∧ tagField t.rsp = 0b00#2 ∧ genericOffset (.bit 1 0) ≠ none) ∧
      (∃ t, exec .mtdec (ta 0) = .next t ∧ tagField t.rsp = 0b00#2) ∧
      (∃ t, exec .omdec (ta 0) = .next t ∧ tagField t.rsp = 0b00#2) ∧
      ∀ c ∈ [0#8, 1, 3, 4, 13, 14, 15, 16, 17, 24], (decodeChannel c).channelCode = some c ∧
        ∃ t, exec (decodeChannel c) (ta 0) = .next t ∧ tagField t.rsp = 0b00#2 :=
  by
  refine ⟨⟨_, rfl, by decide, by decide⟩, ⟨_, rfl, by decide⟩, ⟨_, rfl, by decide⟩, ?_⟩
  intro c h
  fin_cases h <;> exact ⟨by decide, _, rfl, by decide⟩
theorem test_witness_ResponseWordsAreReadInOneWay :
    unpack 0x040FFFC0 = some (.value .celsius (-64)) ∧ unpack 0xD0000000 = some (.error .invalidEnumCode) :=
  by decide
theorem test_witness_ValuesStayInTheRangesOfTheirProducers :
    resultOf (exec (.ext2 0 0 31) (telegram [0xFF, 0xFF] 0)) = some (.value .raw 65535) ∧
      resultOf (exec .resSupplyTemp (telegram [0x40, 0, 0, 0, 0, 0xFF, 0xFF] 0)) = some (.value .celsius 8127) ∧
      resultOf (exec .resOutdoorTemp (basic 6)) = some (.value .celsius (-64)) :=
  by decide
theorem test_witness_ErrorsCarryTheirKindAlone :
    (∃ t, exec .mtdec (telegram [0x80] 0) = .next t ∧ tagField t.rsp = 3) ∧
      (∃ t, exec .resIndoorTemp (basic 1) = .next t ∧ tagField t.rsp ≠ 0) :=
  ⟨⟨_, rfl, by decide⟩, ⟨_, rfl, by decide⟩⟩
theorem test_witness_EveryStepKeepsTheInvariant :
    ∃ t, (ta 0xC011).inv ∧ step (ta 0xC011) = .next t :=
  ⟨_, by decide, rfl⟩
theorem test_witness_RepeatedRequestsGiveTheSameResponse :
    ∃ t, step (ta 0xC011) = .next t :=
  ⟨_, rfl⟩
theorem test_witness_ReorderedSessionsGiveTheSameAnswers :
    [⟨0xE000, 0, 0⟩, ⟨0x0200, 2, 0x0340⟩].Perm [(⟨0x0200, 2, 0x0340⟩ : Request), ⟨0xE000, 0, 0⟩] :=
  by decide
theorem test_witness_FailedRequestsLeaveNoTrace :
    ∃ t, step (present ⟨0x8000, 1, 0x80⟩ State.reset) = .next t ∧ tagField t.rsp = Tag.error.code :=
  ⟨_, rfl, by decide⟩
theorem test_witness_PortBytesAreTheTelegramBytes :
    (0 < 16 ∧ 15 < 16) ∧ (present ⟨0, 16, 0x80 <<< 120⟩ State.reset).byte 15 = 0x80 :=
  by decide
theorem test_witness_CanonicalTelegramsAreTheirPortWords :
    16 ≤ 16 ∧ Memory.wf (ta 0).tg = true ∧ ∀ a, Memory.read (ta 0).tg a = Memory.read (ta 0).tg a :=
  ⟨by decide, by decide, fun _ => rfl⟩
theorem test_witness_EffectiveLengthSaturatesAtSixteen :
    (∀ n ∈ [16#5, 17, 31], 16 ≤ n.toNat) ∧ (telegram [] 0).tgLen = 0 ∧ ∀ w, Instr.omdec ≠ .illegal w :=
  ⟨by decide, by decide, fun _ => Instr.noConfusion⟩
theorem test_witness_ReadsSucceedExactlyInBounds :
    13 < (ta 0).len ∧ (ta 0).len ≤ 14 ∧ 12 + 1 < (ta 0).len ∧ (ta 0).len ≤ 13 + 1 :=
  by decide
theorem test_witness_BoundsErrorsDependOnLengthAlone :
    (telegram [0x40, 1] 0).len = (telegram [0x40, 9] 0).len ∧
      (isRes .resSafetyMode → (telegram [0x40, 1] 0).byte 0 = (telegram [0x40, 9] 0).byte 0) :=
  by decide
theorem test_witness_WrittenNumbersAndChannelNamesAreReadBack :
    24 < 25 ∧ channelMnemonics[24]? = some "OPERATION_MODE" :=
  by decide

end Sys2Proof.Tests
end

/-! PROOFS. The statements of 00_scope.md: the command codec loses no bit of a word, and a request changes `rsp`
alone. -/

namespace Sys2Proof

/-- The arithmetic check of R66 in terms of the decoder's own fields. -/
theorem spellsNoOperation_iff (w : Command) : spellsNoOperation w = true ↔
    opField w = 7 ∨ (opField w = 0 ∧ zeroBitsB w ≠ 0) ∨ (opField w = 1 ∧ zeroBitM w ≠ 0) ∨
      ((opField w = 4 ∨ opField w = 5) ∧ zeroBitsZ w ≠ 0) ∨ (opField w = 6 ∧ zeroBitsC w ≠ 0) := by
  simp [spellsNoOperation, ← BitVec.toNat_inj, opField_toNat, zeroBitsB_toNat, zeroBitM_toNat,
    zeroBitsZ_toNat, zeroBitsC_toNat, or_assoc]

/-! The fields of each format of R61, side by side, are the whole word: no bit belongs to none of them. -/

theorem fields_formatB (w : Command) : opField w ++ boffField w ++ zeroBitsB w ++ bitField w = w := by
  apply BitVec.eq_of_toNat_eq
  simp only [append_toNat, opField_toNat, boffField_toNat, zeroBitsB_toNat, bitField_toNat]
  omega

theorem fields_formatM (w : Command) : opField w ++ boffField w ++ zeroBitM w ++ maskField w = w := by
  apply BitVec.eq_of_toNat_eq
  simp only [append_toNat, opField_toNat, boffField_toNat, zeroBitM_toNat, maskField_toNat]
  omega

theorem fields_formatX (w : Command) : opField w ++ boffField w ++ lsbField w ++ widthField w = w := by
  apply BitVec.eq_of_toNat_eq
  simp only [append_toNat, opField_toNat, boffField_toNat, lsbField_toNat, widthField_toNat]
  omega

theorem fields_formatZ (w : Command) : opField w ++ zeroBitsZ w = w := by
  apply BitVec.eq_of_toNat_eq
  simp only [append_toNat, opField_toNat, zeroBitsZ_toNat]
  omega

theorem fields_formatC (w : Command) : opField w ++ zeroBitsC w ++ chanField w = w := by
  apply BitVec.eq_of_toNat_eq
  simp only [append_toNat, opField_toNat, zeroBitsC_toNat, chanField_toNat]
  omega

section
variable {w : Command}

theorem encode_bit_fields (hop : opField w = 0) (hz : zeroBitsB w = 0) :
    encode (.bit (boffField w) (bitField w)) = w := by
  have hw := fields_formatB w
  rw [hop, hz] at hw
  exact hw

theorem encode_msk_fields (hop : opField w = 1) (hz : zeroBitM w = 0) :
    encode (.msk (boffField w) (maskField w)) = w := by
  have hw := fields_formatM w
  rw [hop, hz] at hw
  exact hw

theorem encode_ext_fields (hop : opField w = 2) :
    encode (.ext (boffField w) (lsbField w) (widthField w)) = w := by
  have hw := fields_formatX w
  rw [hop] at hw
  exact hw

theorem encode_ext2_fields (hop : opField w = 3) :
    encode (.ext2 (boffField w) (lsbField w) (widthField w)) = w := by
  have hw := fields_formatX w
  rw [hop] at hw
  exact hw

theorem encode_mtdec_fields (hop : opField w = 4) (hz : zeroBitsZ w = 0) : encode .mtdec = w := by
  have hw := fields_formatZ w
  rw [hop, hz] at hw
  exact hw

theorem encode_omdec_fields (hop : opField w = 5) (hz : zeroBitsZ w = 0) : encode .omdec = w := by
  have hw := fields_formatZ w
  rw [hop, hz] at hw
  exact hw

theorem formatC_fields (hop : opField w = 6) (hz : zeroBitsC w = 0) : formatC (chanField w) = w := by
  have hw := fields_formatC w
  rw [hop, hz] at hw
  exact hw

end

/-- `i` is an instruction that the word `w` spells. -/
def SpelledBy (w : Command) (i : Instr) : Prop := i.wellFormed = true ∧ encode i = w

/-- A word of R66 spells ILLEGAL, which keeps it whole. -/
theorem spelledBy_illegal {w : Command} (h : spellsNoOperation w = true) : SpelledBy w (.illegal w) := ⟨h, rfl⟩

/-- The RES row of a channel code is spelled by format C. -/
theorem spelledBy_decodeChannel (chan : BitVec 8) : SpelledBy (formatC chan) (decodeChannel chan) :=
  (decodeChannel_spec chan).2

/-- By the eight operation codes: an operation carries every bit but the must-be-zero ones, and a word with one of
those set decodes to ILLEGAL. -/
theorem spelledBy_decode (w : Command) : SpelledBy w (decode w) := by
  have hill := spellsNoOperation_iff w
  rcases opField_cases w with h | h | h | h | h | h | h | h
  · rw [decode_op0 h]
    split
    next hz => exact ⟨rfl, encode_bit_fields h hz⟩
    next hz => exact spelledBy_illegal (hill.2 (.inr (.inl ⟨h, hz⟩)))
  · rw [decode_op1 h]
    split
    next hz => exact ⟨rfl, encode_msk_fields h hz⟩
    next hz => exact spelledBy_illegal (hill.2 (.inr (.inr (.inl ⟨h, hz⟩))))
  · rw [decode_op2 h]
    exact ⟨rfl, encode_ext_fields h⟩
  · rw [decode_op3 h]
    exact ⟨rfl, encode_ext2_fields h⟩
  · rw [decode_op4 h]
    split
    next hz => exact ⟨rfl, encode_mtdec_fields h hz⟩
    next hz => exact spelledBy_illegal (hill.2 (.inr (.inr (.inr (.inl ⟨.inl h, hz⟩)))))
  · rw [decode_op5 h]
    split
    next hz => exact ⟨rfl, encode_omdec_fields h hz⟩
    next hz => exact spelledBy_illegal (hill.2 (.inr (.inr (.inr (.inl ⟨.inr h, hz⟩)))))
  · rw [decode_op6 h]
    split
    next hz => simpa only [formatC_fields h hz] using spelledBy_decodeChannel (chanField w)
    next hz => exact spelledBy_illegal (hill.2 (.inr (.inr (.inr (.inr ⟨h, hz⟩)))))
  · rw [decode_op7 h]
    exact spelledBy_illegal (hill.2 (.inl h))

/-- Settles O2: the decoder answers, on every word, an instruction that the word spells. -/
theorem encodeInvertsDecode : Obligations.EncodeInvertsDecode := spelledBy_decode

namespace Machine

/-- Settles O47: every instruction ends by delivering one outcome on `rsp` (`exec_eq`), and neither the
length nor a byte is read from `rsp`. -/
theorem everyRequestEndsAndOnlyRspChanges : Obligations.EveryRequestEndsAndOnlyRspChanges := by
  intro i s
  exact ⟨_, exec_eq i s, rfl, byte_of_rsp s _, len_of_rsp s _, rfl, rfl⟩

end Machine

end Sys2Proof

/-! PROOFS. The statements of 10_state.md on the inputs: the bytes of a telegram are the bits of its port, and those at
or above the length never matter. -/

namespace Sys2Proof.Machine

/-! The port and its bytes (R28). -/

/-- Bit `k` of the port is bit `k % 8` of byte `k / 8`. -/
theorem Memory.toPortUpTo_getLsbD (m : Memory) {n : Nat} (hn : n ≤ 16) (k : Nat) :
    (Memory.toPortUpTo m n).getLsbD k = (decide (k < 8 * n) && (Memory.read m (k / 8)).getLsbD (k % 8)) := by
  induction n with
  | zero => simp [Memory.toPortUpTo]
  | succ n ih =>
    simp only [Memory.toPortUpTo, BitVec.getLsbD_or, ih (by omega), BitVec.getLsbD_shiftLeft,
      BitVec.getLsbD_setWidth]
    rcases lt_trichotomy (k / 8) n with h | rfl | h
    · have h1 : k < 8 * n := by omega
      have h2 : k < 8 * (n + 1) := by omega
      simp [h1, h2]
    · have h1 : ¬ k < 8 * (k / 8) := by omega
      have h2 : k < 8 * (k / 8 + 1) := by omega
      have h3 : k < 128 := by omega
      have h4 : k - 8 * (k / 8) = k % 8 := by omega
      have h5 : k % 8 < 128 := by omega
      simp [h1, h2, h3, h4, h5]
    · have h1 : ¬ k < 8 * n := by omega
      have h2 : ¬ k < 8 * (n + 1) := by omega
      have h3 : (Memory.read m n).getLsbD (k - 8 * n) = false := BitVec.getLsbD_of_ge _ _ (by omega)
      simp [h1, h2, h3]

theorem Memory.toPort_getLsbD (m : Memory) (k : Nat) :
    (Memory.toPort m).getLsbD k = (decide (k < 128) && (Memory.read m (k / 8)).getLsbD (k % 8)) :=
  Memory.toPortUpTo_getLsbD m (le_refl 16) k

theorem portByte_getLsbD (d : PortData) (a j : Nat) :
    (portByte d a).getLsbD j = (decide (j < 8) && d.getLsbD (8 * a + j)) :=
  BitVec.getLsbD_extractLsb' ..

theorem Memory.portByte_toPort (m : Memory) {a : Nat} (ha : a < 16) :
    portByte (Memory.toPort m) a = Memory.read m a := by
  apply BitVec.eq_of_getLsbD_eq
  intro j hj
  have h1 : 8 * a + j < 128 := by omega
  have h2 : (8 * a + j) / 8 = a := by omega
  have h3 : (8 * a + j) % 8 = j := by omega
  rw [portByte_getLsbD, Memory.toPort_getLsbD, h2, h3]
  simp only [hj, h1, decide_true, Bool.true_and]

theorem Memory.read_ofPort (d : PortData) (a : Nat) :
    Memory.read (Memory.ofPort d) a = if a < 16 then portByte d a else 0#8 := by
  simp [Memory.ofPort, Memory.read_ofPortFrom]

theorem Memory.read_ofPort_of_lt (d : PortData) {a : Nat} (ha : a < 16) :
    Memory.read (Memory.ofPort d) a = portByte d a := by rw [Memory.read_ofPort, if_pos ha]

/-- The bytes of a port word, put back on the port, are that port word. -/
theorem Memory.toPort_ofPort (d : PortData) : Memory.toPort (Memory.ofPort d) = d := by
  apply BitVec.eq_of_getLsbD_eq
  intro k hk
  have h1 : k / 8 < 16 := by omega
  have h2 : k % 8 < 8 := by omega
  have h3 : 8 * (k / 8) + k % 8 = k := by omega
  rw [Memory.toPort_getLsbD, Memory.read_ofPort_of_lt d h1, portByte_getLsbD, h3]
  simp only [hk, h2, decide_true, Bool.true_and]

/-- A canonical telegram does not read as unlisted at its first cell. -/
theorem Memory.read_head_ne {lo a : Nat} {v : Byte} {m : Memory} (hm : Memory.wfFrom lo ((a, v) :: m) = true) :
    Memory.read ((a, v) :: m) a ≠ 0#8 := by
  obtain ⟨-, -, hv, -⟩ := (Memory.wfFrom_cons ..).1 hm
  simpa [Memory.read] using hv

/-- Canonical telegrams with the same bytes do not start at different addresses. -/
theorem Memory.head_not_lt {lo a b : Nat} {u v : Byte} {m n : Memory}
    (hm : Memory.wfFrom lo ((a, u) :: m) = true) (hn : Memory.wfFrom lo ((b, v) :: n) = true)
    (heq : ∀ x, Memory.read ((a, u) :: m) x = Memory.read ((b, v) :: n) x) : ¬ a < b := by
  intro hab
  obtain ⟨-, hb, hv, hn'⟩ := (Memory.wfFrom_cons ..).1 hn
  have hfrom : Memory.wfFrom b ((b, v) :: n) = true := (Memory.wfFrom_cons ..).2 ⟨le_refl b, hb, hv, hn'⟩
  exact Memory.read_head_ne hm ((heq a).trans (Memory.read_below _ hfrom hab))

/-- The bytes determine a canonical telegram. -/
theorem Memory.eq_of_read_eq {lo : Nat} {m n : Memory} (hm : Memory.wfFrom lo m = true)
    (hn : Memory.wfFrom lo n = true) (heq : ∀ x, Memory.read m x = Memory.read n x) : m = n := by
  induction m generalizing lo n with
  | nil =>
    cases n with
    | nil => rfl
    | cons c n => exact absurd (heq c.1).symm (Memory.read_head_ne hn)
  | cons c m ih =>
    obtain ⟨a, u⟩ := c
    cases n with
    | nil => exact absurd (heq a) (Memory.read_head_ne hm)
    | cons e n =>
      obtain ⟨b, v⟩ := e
      have hab := Memory.head_not_lt hm hn heq
      have hba := Memory.head_not_lt hn hm fun x => (heq x).symm
      obtain rfl : a = b := by omega
      obtain rfl : u = v := by simpa [Memory.read] using heq a
      obtain ⟨-, -, -, hm'⟩ := (Memory.wfFrom_cons ..).1 hm
      obtain ⟨-, -, -, hn'⟩ := (Memory.wfFrom_cons ..).1 hn
      rw [ih hm' hn' fun x => ?_]
      by_cases hx : a = x
      · have hlt : x < a + 1 := by omega
        rw [Memory.read_below m hm' hlt, Memory.read_below n hn' hlt]
      · simpa [Memory.read, hx] using heq x

theorem Memory.read_of_ge {m : Memory} {lo a : Nat} (hm : Memory.wfFrom lo m = true) (ha : 16 ≤ a) :
    Memory.read m a = 0#8 := by
  induction m generalizing lo with
  | nil => rfl
  | cons c m ih =>
    obtain ⟨b, v⟩ := c
    obtain ⟨-, hb, -, hm'⟩ := (Memory.wfFrom_cons ..).1 hm
    have hne : b ≠ a := by omega
    simpa [Memory.read, hne] using ih hm'

/-- The cells of the port word of a canonical telegram are the telegram. -/
theorem Memory.ofPort_toPort {m : Memory} (hm : Memory.wf m = true) :
    Memory.ofPort (Memory.toPort m) = m := by
  apply Memory.eq_of_read_eq (Memory.ofPort_wf _) hm
  intro a
  rw [Memory.read_ofPort]
  split
  next ha => exact Memory.portByte_toPort m ha
  next ha => exact (Memory.read_of_ge hm (by omega)).symm

/-- Settles O54: the bytes are read back from the port (`read_ofPort`) and determine a canonical telegram
(`eq_of_read_eq`). -/
theorem canonicalTelegramsAreTheirPortWords : Obligations.CanonicalTelegramsAreTheirPortWords :=
  ⟨fun d => ⟨Memory.ofPort_wf d, fun _ hi => Memory.read_of_ge (Memory.ofPort_wf d) hi⟩,
    fun _ hm => Memory.ofPort_toPort hm, fun _ _ hm hn heq => Memory.eq_of_read_eq hm hn heq⟩

/-- Settles O53. -/
theorem portBytesAreTheTelegramBytes : Obligations.PortBytesAreTheTelegramBytes :=
  fun r _ => ⟨fun _ hi => Memory.read_ofPort_of_lt r.tgData hi, Memory.toPort_ofPort r.tgData⟩

/-! Bytes at or above the length (R29): every outcome reads the telegram through the bounds-checked read. -/

section
variable {s t : State}

theorem bigEndian_congr {a n : Nat} (h : ∀ i, a ≤ i → i < a + n → s.byte i = t.byte i) :
    bigEndian s a n = bigEndian t a n := by
  induction n with
  | zero => rfl
  | succ n ih =>
    rw [bigEndian, bigEndian, ih fun i h1 h2 => h i h1 (by omega), h (a + n) (by omega) (by omega)]

theorem memRead_congr (h : sameTelegram s t) (a n : Nat) : memRead s a n = memRead t a n := by
  obtain ⟨hlen, hbyte⟩ := h
  unfold memRead
  rw [← hlen]
  split
  next hin => rw [bigEndian_congr fun i _ hi => hbyte i (by omega)]
  next => rfl

theorem flag_congr (h : sameTelegram s t) (a k : Nat) (u : PhysUnit) : flag s a k u = flag t a k u := by
  simp only [flag, memRead_congr h]

theorem airQuality_congr (h : sameTelegram s t) (a : Nat) : airQuality s a = airQuality t a := by
  simp only [airQuality, memRead_congr h]

theorem outdoorTemp_congr (h : sameTelegram s t) : outdoorTemp s = outdoorTemp t := by
  simp only [outdoorTemp, memRead_congr h]

/-- SUPPLY_TEMP reads its two bytes beside the bounds-checked read, so the bounds matter here. -/
theorem supplyTemp_congr (h : sameTelegram s t) : supplyTemp s = supplyTemp t := by
  obtain ⟨hlen, hbyte⟩ := h
  rw [supplyTemp_eq, supplyTemp_eq, ← hlen]
  split
  next hin => rw [hbyte 5 (by omega), hbyte 6 hin]
  next => rfl

theorem readOperationMode_congr (h : sameTelegram s t) : readOperationMode s = readOperationMode t := by
  simp only [readOperationMode, memRead_congr h]

theorem dispatch_congr (h : sameTelegram s t) {f g : Except ErrKind Result} (hfg : f = g) :
    dispatch s f = dispatch t g := by
  simp only [dispatch, memRead_congr h, hfg]

theorem outcomeOf_congr (h : sameTelegram s t) (i : Instr) : outcomeOf i s = outcomeOf i t := by
  cases i
  case bit => simp only [outcomeOf, readBit, memRead_congr h]
  case msk => simp only [outcomeOf, readMasked, memRead_congr h]
  case ext => simp only [outcomeOf, readRange, memRead_congr h]
  case ext2 => simp only [outcomeOf, readRangeOfPair, memRead_congr h]
  case mtdec => simp only [outcomeOf, readMessageType, memRead_congr h]
  case omdec => exact readOperationMode_congr h
  case illegal => rfl
  case resAirQuality1 | resAirQuality2 => exact dispatch_congr h (airQuality_congr h _)
  case resOutdoorTemp => exact dispatch_congr h (outdoorTemp_congr h)
  case resSupplyTemp => exact dispatch_congr h (supplyTemp_congr h)
  case resOperationMode => exact dispatch_congr h (readOperationMode_congr h)
  case resIndoorTemp | resExhaustTemp | resSupplyFlow | resExhaustFlow | resSupplyFanSpeed
      | resExhaustFanSpeed | resUnknown => exact dispatch_congr h rfl
  all_goals exact dispatch_congr h (flag_congr h _ _ _)

end

/-- Settles O34: two such telegrams give every instruction the same outcome (`outcomeOf_congr`). -/
theorem bytesAtOrAboveTheLengthNeverMatter : Obligations.BytesAtOrAboveTheLengthNeverMatter := by
  intro s t hcmd h
  refine ⟨_, _, step_eq s, step_eq t, ?_⟩
  rw [hcmd, outcomeOf_congr h]

end Sys2Proof.Machine

/-! PROOFS. The statements of 10_state.md on a step: it computes the port function of the three inputs, and what follows
from that for repeated, served and reordered requests and for the ports at reset. -/

namespace Sys2Proof.Machine

/-! The wires of the ports (R27, R147) against the machine's own reads. -/

theorem wireLen_eq (s : State) : wireLen s.tgLen = s.len := by
  have h : ∀ l : LengthInput, wireLen l = min l.toNat Config.tgMax := by decide
  exact h s.tgLen

theorem wireByte_eq_portByte (d : PortData) (a : Nat) : wireByte d a = (portByte d a).toNat := by
  simp [wireByte, portByte, BitVec.extractLsb'_toNat, Nat.shiftRight_eq_div_pow]

theorem wireByte_toPort (s : State) {a : Nat} (ha : a < 16) :
    wireByte (Memory.toPort s.tg) a = (s.byte a).toNat := by
  rw [wireByte_eq_portByte, Memory.portByte_toPort s.tg ha]; rfl

theorem wireRead_eq (s : State) (a : Nat) (f : Nat → Result) :
    wireRead s.len (Memory.toPort s.tg) a f =
      if a < s.len then f (s.byte a).toNat else .error .bufferBounds := by
  have hlen := len_le s
  unfold wireRead
  split
  next ha => rw [wireByte_toPort s (by omega)]
  next => rfl

theorem wireReadPair_eq (s : State) (a : Nat) (f : Nat → Result) :
    wireReadPair s.len (Memory.toPort s.tg) a f =
      if a + 1 < s.len then f ((s.byte a).toNat * 256 + (s.byte (a + 1)).toNat)
      else .error .bufferBounds := by
  have hlen := len_le s
  unfold wireReadPair
  split
  next ha => rw [wireByte_toPort s (by omega), wireByte_toPort s (by omega)]
  next => rfl

theorem delivered_ite (c : Prop) [Decidable c] (r : Result) (k : ErrKind) :
    delivered (if c then .ok r else .error k) = if c then r else .error k := by
  split <;> rfl

theorem bitValue_eq (b : Byte) (k : Nat) : bitValue b k = ((b.toNat / 2 ^ k % 2 : Nat) : Int) := by
  rw [← bitAt_byte, bitAt_eq]

/-! Each decoder on the wires. -/

section
variable (s : State)

theorem wire_readBit (a : BitVec 4) (k : BitVec 3) :
    wireRead s.len (Memory.toPort s.tg) a.toNat
      (fun v => .value .raw ((v / 2 ^ k.toNat % 2 : Nat) : Int)) = delivered (readBit s a k) := by
  rw [wireRead_eq, readBit_eq, delivered_ite, bitValue_eq]

theorem wire_readMasked (a : BitVec 4) (m : BitVec 8) :
    wireRead s.len (Memory.toPort s.tg) a.toNat
      (fun v => .value .raw ((v &&& m.toNat : Nat) : Int)) = delivered (readMasked s a m) := by
  rw [wireRead_eq, readMasked_eq, delivered_ite, BitVec.toNat_and]

theorem wire_readRange (a lsb : BitVec 4) (w : BitVec 5) :
    wireRead s.len (Memory.toPort s.tg) a.toNat
      (fun v => .value .raw ((v / 2 ^ lsb.toNat % 2 ^ w.toNat : Nat) : Int)) =
        delivered (readRange s a lsb w) := by
  rw [wireRead_eq, readRange_eq, delivered_ite]

theorem wire_readRangeOfPair (a lsb : BitVec 4) (w : BitVec 5) :
    wireReadPair s.len (Memory.toPort s.tg) a.toNat
      (fun v => .value .raw ((v / 2 ^ lsb.toNat % 2 ^ w.toNat : Nat) : Int)) =
        delivered (readRangeOfPair s a lsb w) := by
  rw [wireReadPair_eq, readRangeOfPair_eq, delivered_ite]

theorem wire_flag (a k : Nat) (u : PhysUnit) :
    wireRead s.len (Memory.toPort s.tg) a (fun v => .value u ((v / 2 ^ k % 2 : Nat) : Int)) =
      delivered (flag s a k u) := by
  rw [wireRead_eq, flag_eq, delivered_ite, bitValue_eq]

theorem wire_airQuality (a : Nat) :
    wireRead s.len (Memory.toPort s.tg) a (fun v => .value .percent ((v % 128 : Nat) : Int)) =
      delivered (airQuality s a) := by
  rw [wireRead_eq, airQuality_eq, delivered_ite]

theorem wire_outdoorTemp :
    wireRead s.len (Memory.toPort s.tg) 5 (fun v => .value .celsius (((v / 2 : Nat) : Int) - 64)) =
      delivered (outdoorTemp s) := by
  rw [wireRead_eq, outdoorTemp_eq, delivered_ite]

theorem wire_supplyTemp :
    wireReadPair s.len (Memory.toPort s.tg) 5
      (fun w => .value .celsius (((w / 4 % 8192 : Nat) : Int) - 64)) = delivered (supplyTemp s) := by
  have hlow := byte_lt s 6
  have hsum : ((s.byte 5).toNat * 256 + (s.byte 6).toNat) / 4 % 8192 =
      (s.byte 5).toNat % 128 * 64 + (s.byte 6).toNat / 4 := by omega
  rw [wireReadPair_eq, supplyTemp_eq, delivered_ite, hsum]

theorem wire_readMessageType :
    wireRead s.len (Memory.toPort s.tg) 0 (fun b0 =>
      if b0 / 32 < 4 then .value .enumMsgType ((b0 / 32 : Nat) : Int) else .error .invalidEnumCode) =
        delivered (readMessageType s) := by
  rw [wireRead_eq]
  split
  next h =>
    have hcode : (s.byte 0).toNat / 32 < 4 ↔ (s.byte 0).toNat < 128 := by omega
    rw [readMessageType_of_pos h, delivered_ite, if_congr hcode rfl rfl]
  next h => rw [readMessageType_of_empty (by omega), delivered_error]

/-- The wires give the ordinals of R76. -/
theorem wireOperationMode_eq (v : Nat) : wireOperationMode v =
    match operationModeOfCode (v % 16) with
    | some m => .value .enumOpMode m.ordinal
    | none => .error .invalidEnumCode := by
  have hlt : v % 16 < 16 := Nat.mod_lt _ (by decide)
  unfold wireOperationMode
  generalize v % 16 = c at hlt
  interval_cases c <;> rfl

theorem wire_readOperationMode :
    wireRead s.len (Memory.toPort s.tg) 0 wireOperationMode = delivered (readOperationMode s) := by
  rw [wireRead_eq]
  split
  next h =>
    rw [readOperationMode_of_pos h, wireOperationMode_eq]
    cases operationModeOfCode ((s.byte 0).toNat % 16) <;> rfl
  next h => rw [readOperationMode_of_empty (by omega), delivered_error]

/-- The machine's 25 field decoders, by channel code (R74). -/
def fieldDecoders : List (Except ErrKind Result) :=
  [safetyMode s, bypassOpened s, supplyFlapOpened s, exhaustFlapOpened s, defrostMode s,
    coolingProtection s, outdoorHeater s, supplyHeater s, drainHeater s, timerMode s,
    filterMaintenance s, weeklyTimer s, roomTempControl s, masterSlave s, airQuality1 s,
    airQuality2 s, outdoorTemp s, supplyTemp s, indoorTemp, exhaustTemp, supplyFlow,
    exhaustFlow, supplyFanSpeed, exhaustFanSpeed, operationMode s]

/-- The decoder that a channel code selects; for a code without one, R143. -/
def selectedDecoder (chan : Nat) : Except ErrKind Result := (fieldDecoders s)[chan]?.getD unknownChannel

/-- No decoder belongs to a code from 25 on. -/
theorem selectedDecoder_of_ge {chan : Nat} (h : 25 ≤ chan) : selectedDecoder s chan = unknownChannel := by
  have hnone : (fieldDecoders s)[chan]? = none := List.getElem?_eq_none h
  rw [selectedDecoder, hnone]; rfl

theorem decodeChannel_of_ge : ∀ c : BitVec 8, 25 ≤ c.toNat → decodeChannel c = .resUnknown c := by
  decide

/-- A RES row dispatches to the decoder of its channel code. -/
theorem outcomeOf_decodeChannel (c : BitVec 8) :
    outcomeOf (decodeChannel c) s = dispatch s (selectedDecoder s c.toNat) := by
  rcases Nat.lt_or_ge c.toNat 25 with hc | hc
  · unfold decodeChannel
    generalize c.toNat = chan at hc
    interval_cases chan <;> rfl
  · rw [decodeChannel_of_ge c hc, selectedDecoder_of_ge s hc, outcomeOf]

theorem decoderOutputs_eq :
    decoderOutputs s.len (Memory.toPort s.tg) = (fieldDecoders s).map delivered := by
  simp only [decoderOutputs, flagPositions, List.map_cons, List.map_nil, wire_flag, wire_airQuality,
    wire_outdoorTemp, wire_supplyTemp, wire_readOperationMode]
  rfl

theorem decoderOutputs_get (chan : Nat) :
    (decoderOutputs s.len (Memory.toPort s.tg))[chan]?.getD .undefined =
      delivered (selectedDecoder s chan) := by
  rw [decoderOutputs_eq, List.getElem?_map, selectedDecoder]
  cases (fieldDecoders s)[chan]? <;> rfl

/-- The two multiplexers against the dispatch, by the four kinds of telegram. -/
theorem wireResolve_eq (chan : Nat) :
    wireResolve s.len (Memory.toPort s.tg) chan = delivered (dispatch s (selectedDecoder s chan)) := by
  rw [wireResolve, wireRead_eq, decoderOutputs_get]
  rcases telegram_cases s with h | h | h | h
  · rw [dispatch_empty h, if_neg (by omega), delivered_error]
  · rw [dispatch_basic h, if_pos h.1, if_neg (by omega), if_neg (by omega)]
  · rw [dispatch_other h, if_pos h.1, if_neg (by omega), if_pos (by omega), delivered_ok]
  · rw [dispatch_invalid h, if_pos h.1, if_pos (by omega), delivered_error]

/-! The slices of the command port are the decoder's fields (R60, R61). -/

theorem wire_op (w : Command) : w.toNat / 8192 = (opField w).toNat := (opField_toNat w).symm

theorem wire_boff (w : Command) : w.toNat / 512 % 16 = (boffField w).toNat := (boffField_toNat w).symm

theorem wire_bit (w : Command) : w.toNat % 8 = (bitField w).toNat := (bitField_toNat w).symm

theorem wire_mask (w : Command) : w.toNat % 256 = (maskField w).toNat := (maskField_toNat w).symm

theorem wire_lsb (w : Command) : w.toNat / 32 % 16 = (lsbField w).toNat := (lsbField_toNat w).symm

theorem wire_width (w : Command) : w.toNat % 32 = (widthField w).toNat := (widthField_toNat w).symm

theorem wire_chan (w : Command) : w.toNat % 256 = (chanField w).toNat := (chanField_toNat w).symm

theorem wire_zeroB (w : Command) : w.toNat / 8 % 64 = 0 ↔ zeroBitsB w = 0 := by
  rw [← BitVec.toNat_inj, zeroBitsB_toNat]; rfl

theorem wire_zeroM (w : Command) : w.toNat / 256 % 2 = 0 ↔ zeroBitM w = 0 := by
  rw [← BitVec.toNat_inj, zeroBitM_toNat]; rfl

theorem wire_zeroZ (w : Command) : w.toNat % 8192 = 0 ↔ zeroBitsZ w = 0 := by
  rw [← BitVec.toNat_inj, zeroBitsZ_toNat]; rfl

theorem wire_zeroC (w : Command) : w.toNat / 256 % 32 = 0 ↔ zeroBitsC w = 0 := by
  rw [← BitVec.toNat_inj, zeroBitsC_toNat]; rfl

/-- A must-be-zero check picks the same side on the wires and in the decoder. -/
theorem delivered_outcomeOf_ite (c : Prop) [Decidable c] (i : Instr) (w : Command) :
    delivered (outcomeOf (if c then i else .illegal w) s) =
      if c then delivered (outcomeOf i s) else .error .illegalCommand := by
  split <;> rfl

/-- The wires give the result that the sequential machine delivers, by the eight operation codes: the must-be-zero
bits are tested alike, and behind them stands the same reading. -/
theorem portResult_eq :
    portResult s.cmd s.tgLen (Memory.toPort s.tg) = delivered (outcomeOf (decode s.cmd) s) := by
  simp only [portResult, wire_op, wireLen_eq]
  rcases opField_cases s.cmd with h | h | h | h | h | h | h | h
  · simp only [decode_op0 h, h, delivered_outcomeOf_ite, wire_zeroB, wire_boff, wire_bit]
    exact if_congr Iff.rfl (wire_readBit ..) rfl
  · simp only [decode_op1 h, h, delivered_outcomeOf_ite, wire_zeroM, wire_boff, wire_mask]
    exact if_congr Iff.rfl (wire_readMasked ..) rfl
  · simp only [decode_op2 h, h, wire_boff, wire_lsb, wire_width]
    exact wire_readRange ..
  · simp only [decode_op3 h, h, wire_boff, wire_lsb, wire_width]
    exact wire_readRangeOfPair ..
  · simp only [decode_op4 h, h, delivered_outcomeOf_ite, wire_zeroZ]
    exact if_congr Iff.rfl (wire_readMessageType s) rfl
  · simp only [decode_op5 h, h, delivered_outcomeOf_ite, wire_zeroZ]
    exact if_congr Iff.rfl (wire_readOperationMode s) rfl
  · simp only [decode_op6 h, h, delivered_outcomeOf_ite, wire_zeroC, wire_chan, outcomeOf_decodeChannel]
    exact if_congr Iff.rfl (wireResolve_eq ..) rfl
  · simp only [decode_op7 h, h]
    rfl

end

/-- Settles O48: both designs answer with one result (`portResult_eq`). -/
theorem stepComputesThePortFunction : Obligations.StepComputesThePortFunction := by
  intro s
  rw [step_eq, portFunction, portResult_eq]

/-! Requests one after another: `rsp` is the port function of the three inputs, so nothing else of the ports is
carried from one request to the next. -/

/-- Settles O49: neither `rsp` nor a step before is among the inputs of the port function. -/
theorem repeatedRequestsGiveTheSameResponse : Obligations.RepeatedRequestsGiveTheSameResponse := by
  intro s
  refine ⟨fun x => ?_, fun t ht => ?_⟩
  · rw [stepComputesThePortFunction, stepComputesThePortFunction s]
  · rw [stepComputesThePortFunction] at ht
    cases ht
    rw [stepComputesThePortFunction]

/-- The step on a presented request answers with the port function of that request. -/
theorem step_present (r : Request) (s : State) :
    step (present r s) =
      .next { present r s with rsp := portFunction r.cmd r.tgLen r.tgData } := by
  have h := stepComputesThePortFunction (present r s)
  rw [present_tg, Memory.toPort_ofPort] at h
  exact h

/-- Settles O50, by induction on the requests, from any state of the ports. -/
theorem sessionAnswersEachRequestByItself : Obligations.SessionAnswersEachRequestByItself := by
  intro rs
  induction rs with
  | nil => exact fun _ => rfl
  | cons r rs ih =>
    intro s
    rw [serve, step_present, List.map_cons, ← ih]

/-- Settles O51: a session pairs each request with a function of it alone (O50). -/
theorem reorderedSessionsGiveTheSameAnswers : Obligations.ReorderedSessionsGiveTheSameAnswers := by
  intro rs qs s t hperm
  rw [sessionAnswersEachRequestByItself, sessionAnswersEachRequestByItself, ← List.map_prod_left_eq_zip,
    ← List.map_prod_left_eq_zip]
  exact hperm.map _

/-! The state before the first request (R36). -/

/-- The response at reset is the port function of the inputs at reset. -/
theorem reset_rsp : State.reset.rsp =
    portFunction State.reset.cmd State.reset.tgLen (Memory.toPort State.reset.tg) := by
  decide

/-- Settles O46. -/
theorem resetMeetsTheInvariant : Obligations.ResetMeetsTheInvariant := by
  refine ⟨⟨reset_tg_wf, by decide⟩, ?_⟩
  rw [stepComputesThePortFunction, ← reset_rsp]

end Sys2Proof.Machine

/-! PROOFS. The statement of 10_state.md on the result: the range of every value, and the response word that it is read
back from. -/

namespace Sys2Proof.Machine

/-- The unit of an instruction's values with their least and greatest number (R34); `none` for an instruction that
answers with no value. -/
def valueRange : Instr → Option (PhysUnit × Int × Int)
  | .bit _ _ => some (.raw, 0, 1)
  | .msk _ _ | .ext _ _ _ => some (.raw, 0, 255)
  | .ext2 _ _ _ => some (.raw, 0, 65535)
  | .mtdec => some (.enumMsgType, 0, 3)
  | .omdec | .resOperationMode => some (.enumOpMode, 0, 8)
  | .resBypassOpened | .resSupplyFlapOpened | .resExhaustFlapOpened => some (.boolOpenClosed, 0, 1)
  | .resSafetyMode | .resDefrostMode | .resCoolingProtection | .resOutdoorHeater | .resSupplyHeater
  | .resDrainHeater | .resTimerMode | .resFilterMaintenance | .resWeeklyTimer | .resRoomTempControl
  | .resMasterSlave => some (.boolOnOff, 0, 1)
  | .resAirQuality1 | .resAirQuality2 => some (.percent, 0, 127)
  | .resOutdoorTemp => some (.celsius, -64, 63)
  | .resSupplyTemp => some (.celsius, -64, 8127)
  | .resIndoorTemp | .resExhaustTemp | .resSupplyFlow | .resExhaustFlow | .resSupplyFanSpeed
  | .resExhaustFanSpeed | .resUnknown _ | .illegal _ => none

/-- Where the outcome is a value, its unit and number are within the range. -/
def WithinRange (o : Except ErrKind Result) (range : Option (PhysUnit × Int × Int)) : Prop :=
  ∀ u v, o = .ok (.value u v) → ∃ lo hi, range = some (u, lo, hi) ∧ lo ≤ v ∧ v ≤ hi

namespace WithinRange

theorem of_value {u : PhysUnit} {v lo hi : Int} (hlo : lo ≤ v) (hhi : v ≤ hi) :
    WithinRange (.ok (.value u v)) (some (u, lo, hi)) := by
  intro u' v' h
  cases h
  exact ⟨lo, hi, rfl, hlo, hhi⟩

theorem of_error (k : ErrKind) (range : Option (PhysUnit × Int × Int)) : WithinRange (.error k) range :=
  fun _ _ h => nomatch h

theorem of_undefined (range : Option (PhysUnit × Int × Int)) : WithinRange (.ok .undefined) range :=
  fun _ _ h => nomatch h

theorem of_unsupported (range : Option (PhysUnit × Int × Int)) : WithinRange unsupported range :=
  fun _ _ h => nomatch h

/-- A value behind a check. -/
theorem of_ite {c : Prop} [Decidable c] {u : PhysUnit} {v lo hi : Int} {k : ErrKind} (hlo : c → lo ≤ v)
    (hhi : c → v ≤ hi) :
    WithinRange (if c then .ok (.value u v) else .error k) (some (u, lo, hi)) := by
  split
  next h => exact of_value (hlo h) (hhi h)
  next => exact of_error k _

/-- The dispatch adds no value of its own. -/
theorem dispatch {s : State} {f : Except ErrKind Result} {range : Option (PhysUnit × Int × Int)}
    (hf : WithinRange f range) : WithinRange (dispatch s f) range := by
  rcases telegram_cases s with h | h | h | h
  · rw [dispatch_empty h]; exact of_error _ _
  · rw [dispatch_basic h]; exact hf
  · rw [dispatch_other h]; exact of_undefined _
  · rw [dispatch_invalid h]; exact of_error _ _

section
variable (s : State)

theorem readBit (a : BitVec 4) (k : BitVec 3) : WithinRange (readBit s a k) (some (.raw, 0, 1)) := by
  rw [readBit_eq]
  exact of_ite (fun _ => (bitValue_range ..).1) fun _ => (bitValue_range ..).2

theorem readMasked (a : BitVec 4) (m : BitVec 8) :
    WithinRange (readMasked s a m) (some (.raw, 0, 255)) := by
  rw [readMasked_eq]
  exact of_ite (by omega) (by omega)

theorem readRange (a lsb : BitVec 4) (w : BitVec 5) :
    WithinRange (readRange s a lsb w) (some (.raw, 0, 255)) := by
  have hb := byte_lt s a.toNat
  have hle := (Nat.mod_le ((s.byte a.toNat).toNat / 2 ^ lsb.toNat) (2 ^ w.toNat)).trans (Nat.div_le_self ..)
  rw [readRange_eq]
  exact of_ite (by omega) (by omega)

theorem readRangeOfPair (a lsb : BitVec 4) (w : BitVec 5) :
    WithinRange (readRangeOfPair s a lsb w) (some (.raw, 0, 65535)) := by
  have hhigh := byte_lt s a.toNat
  have hlow := byte_lt s (a.toNat + 1)
  have hle := (Nat.mod_le (((s.byte a.toNat).toNat * 256 + (s.byte (a.toNat + 1)).toNat) / 2 ^ lsb.toNat)
    (2 ^ w.toNat)).trans (Nat.div_le_self ..)
  rw [readRangeOfPair_eq]
  exact of_ite (by omega) (by omega)

theorem readMessageType : WithinRange (readMessageType s) (some (.enumMsgType, 0, 3)) := by
  rcases Nat.eq_zero_or_pos s.len with h | h
  · rw [readMessageType_of_empty h]; exact of_error _ _
  · rw [readMessageType_of_pos h]
    exact of_ite (by omega) (by omega)

theorem readOperationMode : WithinRange (readOperationMode s) (some (.enumOpMode, 0, 8)) := by
  rcases Nat.eq_zero_or_pos s.len with h | h
  · rw [readOperationMode_of_empty h]; exact of_error _ _
  · rw [readOperationMode_of_pos h]
    cases operationModeOfCode ((s.byte 0).toNat % 16) with
    | none => exact of_error _ _
    | some m => cases m <;> exact of_value (by decide) (by decide)

theorem flag (a k : Nat) (u : PhysUnit) : WithinRange (flag s a k u) (some (u, 0, 1)) := by
  rw [flag_eq]
  exact of_ite (fun _ => (bitValue_range ..).1) fun _ => (bitValue_range ..).2

theorem airQuality (a : Nat) : WithinRange (airQuality s a) (some (.percent, 0, 127)) := by
  rw [airQuality_eq]
  exact of_ite (by omega) (by omega)

theorem outdoorTemp : WithinRange (outdoorTemp s) (some (.celsius, -64, 63)) := by
  have hb := byte_lt s 5
  rw [outdoorTemp_eq]
  exact of_ite (by omega) (by omega)

theorem supplyTemp : WithinRange (supplyTemp s) (some (.celsius, -64, 8127)) := by
  have hb := byte_lt s 6
  rw [supplyTemp_eq]
  exact of_ite (by omega) (by omega)

end
end WithinRange

/-- Every value is within the range of its instruction, row by row of R34. -/
theorem outcomeOf_withinRange (i : Instr) (s : State) : WithinRange (outcomeOf i s) (valueRange i) := by
  cases i
  case bit => exact .readBit s _ _
  case msk => exact .readMasked s _ _
  case ext => exact .readRange s _ _ _
  case ext2 => exact .readRangeOfPair s _ _ _
  case mtdec => exact .readMessageType s
  case omdec => exact .readOperationMode s
  case illegal => exact .of_error _ _
  case resAirQuality1 | resAirQuality2 => exact .dispatch (.airQuality s _)
  case resOutdoorTemp => exact .dispatch (.outdoorTemp s)
  case resSupplyTemp => exact .dispatch (.supplyTemp s)
  case resOperationMode => exact .dispatch (.readOperationMode s)
  case resIndoorTemp | resExhaustTemp | resSupplyFlow | resExhaustFlow | resSupplyFanSpeed
      | resExhaustFanSpeed => exact .dispatch (.of_unsupported _)
  case resUnknown => exact .dispatch (.of_undefined _)
  all_goals exact .dispatch (.flag s _ _ _)

/-- Every range fits the signed 20-bit `val` field (R70). -/
theorem valueRange_fits {i : Instr} {u : PhysUnit} {lo hi : Int} (h : valueRange i = some (u, lo, hi)) :
    -64 ≤ lo ∧ hi ≤ 65535 := by
  cases i <;> cases h <;> decide

/-- A value that fits the `val` field is read back from its response word. -/
theorem unpack_pack_value (u : PhysUnit) {v : Int} (hlo : -(2 ^ 19) ≤ v) (hhi : v < 2 ^ 19) :
    unpack (Result.value u v).pack = some (.value u v) := by
  obtain ⟨htag, herr, hunit, hzero, hval⟩ := responseWord_fields .value 0 u.code (BitVec.ofInt 20 v)
  have hread : readTag (responseWord .value 0 u.code (BitVec.ofInt 20 v)) = .value := by
    rw [readTag, htag]; rfl
  simp only [Result.pack, Config.valWidth, unpack, hzero, hread, herr, hunit, unitOfCode_code, readValue,
    hval, toInt_ofInt_val hlo hhi]
  rfl

theorem unpack_pack_error (k : ErrKind) : unpack (Result.error k).pack = some (.error k) := by
  cases k <;> decide

theorem unpack_pack_undefined : unpack Result.undefined.pack = some .undefined := by decide

theorem unpack_pack_unsupported : unpack Result.unsupported.pack = some .unsupported := by decide

theorem delivered_eq_value {o : Except ErrKind Result} {u : PhysUnit} {v : Int} :
    delivered o = .value u v ↔ o = .ok (.value u v) := by
  cases o <;> simp

/-- A consumer reads from the response to every instruction the result that was delivered. -/
theorem resultOf_exec (i : Instr) (s : State) : resultOf (exec i s) = some (delivered (outcomeOf i s)) := by
  rw [exec_eq, resultOf]
  cases h : delivered (outcomeOf i s) with
  | value u v =>
    obtain ⟨lo, hi, hrange, hlo, hhi⟩ := outcomeOf_withinRange i s u v (delivered_eq_value.1 h)
    have hfits := valueRange_fits hrange
    exact unpack_pack_value u (by omega) (by omega)
  | undefined => exact unpack_pack_undefined
  | unsupported => exact unpack_pack_unsupported
  | error k => exact unpack_pack_error k

/-- A value that a consumer reads is within the range of its instruction. -/
theorem value_withinRange {i : Instr} {s : State} {u : PhysUnit} {v : Int}
    (h : resultOf (exec i s) = some (.value u v)) :
    ∃ lo hi, valueRange i = some (u, lo, hi) ∧ lo ≤ v ∧ v ≤ hi := by
  rw [resultOf_exec, Option.some_inj, delivered_eq_value] at h
  exact outcomeOf_withinRange i s u v h

/-- Settles O43: the table of R34 is `valueRange`, read row by row. -/
theorem valuesStayInTheRangesOfTheirProducers : Obligations.ValuesStayInTheRangesOfTheirProducers := by
  intro i s u v h
  obtain ⟨lo, hi, hrange, hlo, hhi⟩ := value_withinRange h
  cases i <;> cases hrange
  case bit => exact .inl ⟨rfl, hlo, .inl ⟨_, _, rfl, hhi⟩⟩
  case msk => exact .inl ⟨rfl, hlo, .inr (.inl ⟨_, _, rfl, hhi⟩)⟩
  case ext => exact .inl ⟨rfl, hlo, .inr (.inr (.inl ⟨_, _, _, rfl, hhi⟩))⟩
  case ext2 => exact .inl ⟨rfl, hlo, .inr (.inr (.inr ⟨_, _, _, rfl, hhi⟩))⟩
  case mtdec => exact .inr (.inr (.inr (.inr (.inl ⟨rfl, hlo, hhi, rfl⟩))))
  case omdec => exact .inr (.inr (.inr (.inr (.inr ⟨rfl, hlo, hhi, .inl rfl⟩))))
  case resOperationMode => exact .inr (.inr (.inr (.inr (.inr ⟨rfl, hlo, hhi, .inr rfl⟩))))
  case resAirQuality1 => exact .inr (.inr (.inl ⟨rfl, hlo, hhi, .inl rfl⟩))
  case resAirQuality2 => exact .inr (.inr (.inl ⟨rfl, hlo, hhi, .inr rfl⟩))
  case resOutdoorTemp => exact .inr (.inr (.inr (.inl ⟨rfl, hlo, .inl ⟨rfl, hhi⟩⟩)))
  case resSupplyTemp => exact .inr (.inr (.inr (.inl ⟨rfl, hlo, .inr ⟨rfl, hhi⟩⟩)))
  case resBypassOpened | resSupplyFlapOpened | resExhaustFlapOpened =>
    exact .inr (.inl ⟨.inr rfl, hlo, hhi, _, rfl, by decide⟩)
  all_goals exact .inr (.inl ⟨.inl rfl, hlo, hhi, _, rfl, by decide⟩)

end Sys2Proof.Machine

/-! PROOFS. The statements of 20_memory.md: what the bounds-checked read gives, which lengths there are, and which bits
of a telegram the named readers look at. -/

namespace Sys2Proof.Machine

/-! The bounds-checked read (R43 to R45). -/

/-- Settles O56: the laws of one-byte and two-byte reads, the pair of bytes put side by side. -/
theorem readsSucceedExactlyInBounds : Obligations.ReadsSucceedExactlyInBounds := by
  intro s a
  refine ⟨memRead_one_of_lt, memRead_one_of_ge, fun h => ?_, memRead_two_of_ge⟩
  rw [memRead_two_of_lt h, append_toNat]
  rfl

/-! The effective length (R41): its least value 0 leaves nothing to read, and it ends at 16. -/

/-- Every instruction but ILLEGAL begins with a read, and an empty telegram has no byte in bounds. -/
theorem outcomeOf_of_empty {i : Instr} {s : State} (hi : ∀ w, i ≠ .illegal w) (h : s.len = 0) :
    outcomeOf i s = .error .bufferBounds := by
  cases i
  case bit => rw [outcomeOf, readBit_eq, if_neg (by omega)]
  case msk => rw [outcomeOf, readMasked_eq, if_neg (by omega)]
  case ext => rw [outcomeOf, readRange_eq, if_neg (by omega)]
  case ext2 => rw [outcomeOf, readRangeOfPair_eq, if_neg (by omega)]
  case mtdec => exact readMessageType_of_empty h
  case omdec => exact readOperationMode_of_empty h
  case illegal w => exact absurd rfl (hi w)
  all_goals exact dispatch_empty h _

/-- Settles O31. -/
theorem emptyTelegramFailsEveryReadingOperation : Obligations.EmptyTelegramFailsEveryReadingOperation :=
  fun _ _ hi h => exec_of_outcome (outcomeOf_of_empty hi h)

theorem len_of_tgLen_ge {s : State} (h : 16 ≤ s.tgLen.toNat) : s.len = 16 := Nat.min_eq_right h

theorem len_of_tgLen_zero {s : State} (h : s.tgLen = 0) : s.len = 0 := by rw [State.len, h]; rfl

/-- The block cannot tell a length from 16 on apart from 16. -/
theorem sameTelegram_of_tgLen_ge {s : State} (h : 16 ≤ s.tgLen.toNat) :
    sameTelegram s { s with tgLen := 16#5 } :=
  ⟨len_of_tgLen_ge h, fun _ _ => rfl⟩

/-- Settles O55: lengths from 16 on are told apart by no step (O34), and an empty telegram fails every read (O31). -/
theorem effectiveLengthSaturatesAtSixteen : Obligations.EffectiveLengthSaturatesAtSixteen := by
  intro s
  refine ⟨rfl, fun h => ?_, fun h i hi => ?_⟩
  · exact bytesAtOrAboveTheLengthNeverMatter s _ rfl (sameTelegram_of_tgLen_ge h)
  · exact emptyTelegramFailsEveryReadingOperation i s hi (len_of_tgLen_zero h)

/-! The layout map (R48): a reader depends on the bits that it takes out of its byte. -/

/-- Instructions with one outcome on two telegrams give them one response. -/
theorem rsp_eq_of_outcomeOf_eq {i : Instr} {s t s' t' : State} (h : outcomeOf i s = outcomeOf i t)
    (hs : exec i s = .next s') (ht : exec i t = .next t') : s'.rsp = t'.rsp := by
  rw [exec_eq] at hs ht
  cases hs
  cases ht
  rw [h]

/-- A one-byte reader depends on the length and on what it makes of the byte. -/
theorem memRead_one_bind_congr {s t : State} {a : Nat} {f : Nat → Except ErrKind Result}
    (hlen : s.len = t.len) (hf : a < s.len → f (s.byte a).toNat = f (t.byte a).toNat) :
    (memRead s a 1 >>= f) = (memRead t a 1 >>= f) := by
  rcases Nat.lt_or_ge a s.len with h | h
  · rw [memRead_one_of_lt h, memRead_one_of_lt (hlen ▸ h)]
    exact hf h
  · rw [memRead_one_of_ge h, memRead_one_of_ge (hlen ▸ h)]

/-- The message-type codec takes bits 7:5. -/
theorem decodeMessageType_congr {v w : Nat} (h : v / 32 = w / 32) :
    decodeMessageType v = decodeMessageType w := by
  have hshift : v >>> 5 = w >>> 5 := by simpa only [Nat.shiftRight_eq_div_pow] using h
  rw [decodeMessageType, decodeMessageType, hshift]

/-- The operation-mode codec takes bits 3:0. -/
theorem decodeOperationMode_congr {v w : Nat} (h : v % 16 = w % 16) :
    decodeOperationMode v = decodeOperationMode w := by
  rw [decodeOperationMode_eq, decodeOperationMode_eq, h]

/-- Bits 3:0 are determined by the low nibble. -/
theorem bitAt_congr_of_lowNibble {v w k : Nat} (h : v % 16 = w % 16) (hk : k < 4) : bitAt v k = bitAt w k := by
  rw [bitAt_eq, bitAt_eq]
  interval_cases k <;> omega

/-- Two telegrams of one length with the same bits at the positions that R48 names. -/
structure SameNamedBits (s t : State) : Prop where
  len : s.len = t.len
  typeCode : 0 < s.len → (s.byte 0).toNat / 32 = (t.byte 0).toNat / 32
  modeCode : 0 < s.len → (s.byte 0).toNat % 16 = (t.byte 0).toNat % 16
  lowNibbleOfOne : 1 < s.len → (s.byte 1).toNat % 16 = (t.byte 1).toNat % 16
  wholeByte : ∀ a, 2 ≤ a → a ≤ 5 → a < s.len → s.byte a = t.byte a
  highBitsOfSix : 6 < s.len → (s.byte 6).toNat / 4 = (t.byte 6).toNat / 4

namespace SameNamedBits
variable {s t : State} (h : SameNamedBits s t)
include h

theorem readMessageType_eq : readMessageType s = readMessageType t :=
  memRead_one_bind_congr h.len fun h0 => by rw [decodeMessageType_congr (h.typeCode h0)]

theorem readOperationMode_eq : readOperationMode s = readOperationMode t :=
  memRead_one_bind_congr h.len fun h0 => by rw [decodeOperationMode_congr (h.modeCode h0)]

theorem dispatch_eq {f g : Except ErrKind Result} (hfg : f = g) : dispatch s f = dispatch t g := by
  subst hfg
  exact memRead_one_bind_congr h.len fun h0 => by rw [decodeMessageType_congr (h.typeCode h0)]

theorem flag_of_byteOne {k : Nat} (hk : k < 4) (u : PhysUnit) : flag s 1 k u = flag t 1 k u :=
  memRead_one_bind_congr h.len fun h1 => by rw [bitAt_congr_of_lowNibble (h.lowNibbleOfOne h1) hk]

theorem flag_of_wholeByte {a : Nat} (h2 : 2 ≤ a) (h5 : a ≤ 5) (k : Nat) (u : PhysUnit) :
    flag s a k u = flag t a k u :=
  memRead_one_bind_congr h.len fun ha => by rw [h.wholeByte a h2 h5 ha]

theorem airQuality_of_wholeByte {a : Nat} (h2 : 2 ≤ a) (h5 : a ≤ 5) : airQuality s a = airQuality t a :=
  memRead_one_bind_congr h.len fun ha => by rw [h.wholeByte a h2 h5 ha]

theorem outdoorTemp_eq : outdoorTemp s = outdoorTemp t :=
  memRead_one_bind_congr h.len fun h5 => by rw [h.wholeByte 5 (by decide) (by decide) h5]

theorem supplyTemp_eq : supplyTemp s = supplyTemp t := by
  rw [Machine.supplyTemp_eq, Machine.supplyTemp_eq, ← h.len]
  split
  next h6 => rw [h.wholeByte 5 (by decide) (by decide) (by omega), h.highBitsOfSix h6]
  next => rfl

/-- Every RES row, by its place in the layout map. -/
theorem outcomeOf_res_eq {i : Instr} (hi : isRes i) : outcomeOf i s = outcomeOf i t := by
  cases i
  case bit | msk | ext | ext2 | mtdec | omdec | illegal => exact absurd rfl hi
  case resSafetyMode | resBypassOpened | resSupplyFlapOpened | resExhaustFlapOpened =>
    exact h.dispatch_eq (h.flag_of_byteOne (by decide) _)
  case resAirQuality1 | resAirQuality2 =>
    exact h.dispatch_eq (h.airQuality_of_wholeByte (by decide) (by decide))
  case resOutdoorTemp => exact h.dispatch_eq h.outdoorTemp_eq
  case resSupplyTemp => exact h.dispatch_eq h.supplyTemp_eq
  case resOperationMode => exact h.dispatch_eq h.readOperationMode_eq
  case resIndoorTemp | resExhaustTemp | resSupplyFlow | resExhaustFlow | resSupplyFanSpeed
      | resExhaustFanSpeed | resUnknown => exact h.dispatch_eq rfl
  all_goals exact h.dispatch_eq (h.flag_of_wholeByte (by decide) (by decide) _ _)

end SameNamedBits

/-- Settles O33: MTDEC and OMDEC read their codes of byte 0, and a RES row its place in the layout map. -/
theorem unnamedTelegramBitsAreIgnored : Obligations.UnnamedTelegramBitsAreIgnored := by
  intro i s t s' t' hi hlen h0 h1 hbytes h6
  have h : SameNamedBits s t := ⟨hlen, fun hpos => (h0 hpos).1, fun hpos => (h0 hpos).2, h1, hbytes, h6⟩
  apply rsp_eq_of_outcomeOf_eq
  rcases hi with rfl | rfl | hres
  · exact h.readMessageType_eq
  · exact h.readOperationMode_eq
  · exact h.outcomeOf_res_eq hres

end Sys2Proof.Machine

/-! PROOFS. The statements of 30_encoding.md on command words: what each spelling decodes to, the opcode table, and the
words that spell no operation. -/

namespace Sys2Proof
open Machine

/-! The fields of a word that was put together by a format of R61 are what it was put together from. -/

theorem formatB_fields (op : BitVec 3) (boff : BitVec 4) (z : BitVec 6) (bit : BitVec 3) :
    opField (op ++ boff ++ z ++ bit) = op ∧ boffField (op ++ boff ++ z ++ bit) = boff ∧
      zeroBitsB (op ++ boff ++ z ++ bit) = z ∧ bitField (op ++ boff ++ z ++ bit) = bit := by
  simp only [← BitVec.toNat_inj, opField_toNat, boffField_toNat, zeroBitsB_toNat, bitField_toNat, append_toNat]
  omega

theorem formatM_fields (op : BitVec 3) (boff : BitVec 4) (z : BitVec 1) (mask : BitVec 8) :
    opField (op ++ boff ++ z ++ mask) = op ∧ boffField (op ++ boff ++ z ++ mask) = boff ∧
      zeroBitM (op ++ boff ++ z ++ mask) = z ∧ maskField (op ++ boff ++ z ++ mask) = mask := by
  simp only [← BitVec.toNat_inj, opField_toNat, boffField_toNat, zeroBitM_toNat, maskField_toNat, append_toNat]
  omega

theorem formatX_fields (op : BitVec 3) (boff lsb : BitVec 4) (width : BitVec 5) :
    opField (op ++ boff ++ lsb ++ width) = op ∧ boffField (op ++ boff ++ lsb ++ width) = boff ∧
      lsbField (op ++ boff ++ lsb ++ width) = lsb ∧ widthField (op ++ boff ++ lsb ++ width) = width := by
  simp only [← BitVec.toNat_inj, opField_toNat, boffField_toNat, lsbField_toNat, widthField_toNat, append_toNat]
  omega

theorem formatC_spec (chan : BitVec 8) :
    opField (formatC chan) = 6 ∧ zeroBitsC (formatC chan) = 0 ∧ chanField (formatC chan) = chan := by
  simp only [← BitVec.toNat_inj, opField_toNat, zeroBitsC_toNat, chanField_toNat, formatC_toNat,
    BitVec.ofNat_eq_ofNat, BitVec.toNat_ofNat]
  omega

/-! Decoding what a row is encoded as, one lemma per format. -/

theorem decode_encode_bit (boff : BitVec 4) (bit : BitVec 3) :
    decode (encode (.bit boff bit)) = .bit boff bit := by
  obtain ⟨hop, hboff, hz, hbit⟩ := formatB_fields 0#3 boff 0#6 bit
  simp [encode, decode_op0 hop, hz, hboff, hbit]

theorem decode_encode_msk (boff : BitVec 4) (mask : BitVec 8) :
    decode (encode (.msk boff mask)) = .msk boff mask := by
  obtain ⟨hop, hboff, hz, hmask⟩ := formatM_fields 1#3 boff 0#1 mask
  simp [encode, decode_op1 hop, hz, hboff, hmask]

theorem decode_encode_ext (boff lsb : BitVec 4) (width : BitVec 5) :
    decode (encode (.ext boff lsb width)) = .ext boff lsb width := by
  obtain ⟨hop, hboff, hlsb, hwidth⟩ := formatX_fields 2#3 boff lsb width
  rw [encode, decode_op2 hop, hboff, hlsb, hwidth]

theorem decode_encode_ext2 (boff lsb : BitVec 4) (width : BitVec 5) :
    decode (encode (.ext2 boff lsb width)) = .ext2 boff lsb width := by
  obtain ⟨hop, hboff, hlsb, hwidth⟩ := formatX_fields 3#3 boff lsb width
  rw [encode, decode_op3 hop, hboff, hlsb, hwidth]

theorem decode_formatC (chan : BitVec 8) : decode (formatC chan) = decodeChannel chan := by
  obtain ⟨hop, hz, hchan⟩ := formatC_spec chan
  rw [decode_op6 hop, if_pos hz, hchan]

/-- A RES row that some word spells is the row of its channel code. -/
theorem eq_decodeChannel {i : Instr} {chan : BitVec 8} (hi : i.wellFormed = true)
    (hchan : i.channelCode = some chan) : i = decodeChannel chan := by
  cases i <;> cases hchan
  case resUnknown => exact (decodeChannel_of_ge chan (of_decide_eq_true hi)).symm
  all_goals rfl

/-- A word of R66 decodes to ILLEGAL. -/
theorem decode_of_spellsNoOperation {w : Command} (h : spellsNoOperation w = true) : decode w = .illegal w := by
  rcases (spellsNoOperation_iff w).1 h with h7 | ⟨h0, hz⟩ | ⟨h1, hz⟩ | ⟨h4 | h5, hz⟩ | ⟨h6, hz⟩
  · exact decode_op7 h7
  · rw [decode_op0 h0, if_neg hz]
  · rw [decode_op1 h1, if_neg hz]
  · rw [decode_op4 h4, if_neg hz]
  · rw [decode_op5 h5, if_neg hz]
  · rw [decode_op6 h6, if_neg hz]

/-- Settles O1, by the formats: a RES row through its channel code, every other row by its own. -/
theorem decodeInvertsEncode : Obligations.DecodeInvertsEncode := by
  intro i hi
  cases hchan : i.channelCode with
  | some chan =>
    obtain ⟨-, -, hformat⟩ := decodeChannel_spec chan
    rw [eq_decodeChannel hi hchan, hformat, decode_formatC]
  | none =>
    cases i
    case bit => exact decode_encode_bit _ _
    case msk => exact decode_encode_msk _ _
    case ext => exact decode_encode_ext _ _ _
    case ext2 => exact decode_encode_ext2 _ _ _
    case mtdec | omdec => rfl
    case illegal => exact decode_of_spellsNoOperation hi
    all_goals cases hchan

/-- Settles O6: each of the words is the encoding of its instruction, bit by bit, and O1 decodes it. -/
theorem specWordsDecodeToTheirInstructions : Obligations.SpecWordsDecodeToTheirInstructions :=
  ⟨decodeInvertsEncode (.bit 1 0) rfl, decodeInvertsEncode (.msk 3 0x7F) rfl,
    decodeInvertsEncode (.ext 5 1 7) rfl, decodeInvertsEncode (.ext2 5 2 13) rfl,
    decodeInvertsEncode .mtdec rfl, decodeInvertsEncode .omdec rfl,
    decodeInvertsEncode .resSupplyFlapOpened rfl, decodeInvertsEncode .resOperationMode rfl,
    decodeInvertsEncode (.resUnknown 25) rfl, decodeInvertsEncode (.illegal 0xE123) rfl⟩

/-- Settles O9: the decoder stands between the command port and `exec`, and undoes the encoding (O1). -/
theorem stepRunsTheDecodedCommand : Obligations.StepRunsTheDecodedCommand := by
  refine ⟨fun s i _ hdecode => ?_, fun s i hi => ?_⟩
  · rw [step, fetch, hdecode]
  · rw [step, fetch, withFetchWord_cmd, BitVec.ofNat_toNat, BitVec.setWidth_eq, decodeInvertsEncode i hi,
      State.withFetchWord, BitVec.ofNat_toNat, BitVec.setWidth_eq]

/-! The opcode table (R64): a row fixes the bits under its mask. -/

/-- A slice that lies under the mask is the pattern's. -/
theorem slice_of_masked {w mask pattern : Command} {start len : Nat} (h : w &&& mask = pattern)
    (hmask : mask.extractLsb' start len = BitVec.allOnes len) :
    w.extractLsb' start len = pattern.extractLsb' start len := by
  rw [← h, BitVec.extractLsb'_and, hmask, BitVec.and_allOnes]

/-- A row selects one word alone, or is one of the six that leave bits free. -/
theorem opcodeTable_rows : ∀ r ∈ opcodeTable,
    (r.mask = BitVec.allOnes 16 ∧ (decode r.pattern).tableOrder = r.order) ∨
      r = ⟨1, "BIT", 0xE1F8, 0x0000⟩ ∨ r = ⟨2, "MSK", 0xE100, 0x2000⟩ ∨ r = ⟨3, "EXT", 0xE000, 0x4000⟩ ∨
      r = ⟨4, "EXT2", 0xE000, 0x6000⟩ ∨ r = ⟨32, "RES.UNKNOWN", 0xFF00, 0xC000⟩ ∨
      r = ⟨33, "ILLEGAL", 0x0000, 0x0000⟩ := by
  decide

theorem opcodeTable_orders : opcodeTable.map OpcodeRow.order = List.range' 1 33 := rfl

theorem opcodeTable_sorted : opcodeTable.Pairwise fun p q => p.order < q.order := by
  rw [← List.pairwise_map, opcodeTable_orders]
  exact List.pairwise_lt_range'

theorem tableOrder_le (i : Instr) : i.tableOrder ≤ 33 := by
  cases i <;> simp only [Instr.tableOrder] <;> decide

theorem tableOrder_decodeChannel : ∀ chan : BitVec 8,
    7 ≤ (decodeChannel chan).tableOrder ∧ (decodeChannel chan).tableOrder ≤ 32 := by
  decide

/-- A word is selected by its own row, by ILLEGAL, and when it spells RES with a recognised code by RES.UNKNOWN. -/
theorem order_of_selects {r : OpcodeRow} (hr : r ∈ opcodeTable) {w : Command} (h : r.selects w = true) :
    r.order = (decode w).tableOrder ∨ r.order = 33 ∨
      (r.order = 32 ∧ 7 ≤ (decode w).tableOrder ∧ (decode w).tableOrder ≤ 31) := by
  have hand : w &&& r.mask = r.pattern := eq_of_beq h
  rcases opcodeTable_rows r hr with ⟨hmask, horder⟩ | rfl | rfl | rfl | rfl | rfl | rfl
  · rw [hmask, BitVec.and_allOnes] at hand
    rw [hand, horder]
    exact .inl rfl
  · have hop : opField w = 0 := slice_of_masked (start := 13) hand rfl
    have hz : zeroBitsB w = 0 := slice_of_masked (start := 3) hand rfl
    rw [decode_op0 hop, if_pos hz]
    exact .inl rfl
  · have hop : opField w = 1 := slice_of_masked (start := 13) hand rfl
    have hz : zeroBitM w = 0 := slice_of_masked (start := 8) hand rfl
    rw [decode_op1 hop, if_pos hz]
    exact .inl rfl
  · have hop : opField w = 2 := slice_of_masked (start := 13) hand rfl
    rw [decode_op2 hop]
    exact .inl rfl
  · have hop : opField w = 3 := slice_of_masked (start := 13) hand rfl
    rw [decode_op3 hop]
    exact .inl rfl
  · have hop : opField w = 6 := slice_of_masked (start := 13) hand rfl
    have hz : zeroBitsC w = 0 := slice_of_masked (start := 8) hand rfl
    obtain ⟨hlow, hhigh⟩ := tableOrder_decodeChannel (chanField w)
    rw [decode_op6 hop, if_pos hz]
    rcases Nat.eq_or_lt_of_le hhigh with h32 | hlt
    · exact .inl h32.symm
    · exact .inr (.inr ⟨rfl, hlow, Nat.le_of_lt_succ hlt⟩)
  · exact .inr (.inl rfl)

/-- The encoding of every instruction selects its own row. -/
theorem encodingMatchesRow (i : Instr) : Laws.EncodingMatchesRow.Statement i := by
  cases i
  case bit => exact Laws.EncodingMatchesRow.bit _ _
  case msk => exact Laws.EncodingMatchesRow.msk _ _
  case ext => exact Laws.EncodingMatchesRow.ext _ _ _
  case ext2 => exact Laws.EncodingMatchesRow.ext2 _ _ _
  case resUnknown => exact Laws.EncodingMatchesRow.resUnknown _
  case illegal => exact Laws.EncodingMatchesRow.illegal _
  all_goals unfold Laws.EncodingMatchesRow.Statement; decide

/-- The row of what a word decodes to selects the word. -/
theorem decoded_row_selects (w : Command) :
    ∃ r ∈ opcodeTable, r.order = (decode w).tableOrder ∧ r.selects w = true := by
  obtain ⟨-, hencode⟩ := encodeInvertsDecode w
  simpa only [Laws.EncodingMatchesRow.Statement, hencode] using encodingMatchesRow (decode w)

/-- The first row that a word selects stands nowhere behind another that the word selects. -/
theorem firstRow_spec {w : Command} {q : OpcodeRow} (hq : q ∈ opcodeTable) (hsel : q.selects w = true) :
    ∃ r ∈ opcodeTable, firstRow w = some r ∧ r.selects w = true ∧ r.order ≤ q.order := by
  obtain ⟨r, hr⟩ : ∃ r, firstRow w = some r :=
    Option.isSome_iff_exists.1 (List.find?_isSome.2 ⟨q, hq, hsel⟩)
  obtain ⟨hrsel, before, after, htable, hbefore⟩ := List.find?_eq_some_iff_append.1 hr
  have hsorted := opcodeTable_sorted
  rw [htable, List.pairwise_append, List.pairwise_cons] at hsorted
  obtain ⟨-, ⟨hafter, -⟩, -⟩ := hsorted
  refine ⟨r, List.mem_of_find?_eq_some hr, hr, hrsel, ?_⟩
  rw [htable, List.mem_append, List.mem_cons] at hq
  rcases hq with hq | rfl | hq
  · have hno := hbefore q hq
    rw [hsel] at hno
    cases hno
  · exact Nat.le_refl _
  · exact Nat.le_of_lt (hafter q hq)

theorem firstRow_order (w : Command) : (firstRow w).map OpcodeRow.order = some (decode w).tableOrder := by
  obtain ⟨q, hq, horder, hsel⟩ := decoded_row_selects w
  obtain ⟨r, hr, hfirst, hrsel, hle⟩ := firstRow_spec hq hsel
  have hcases := order_of_selects hr hrsel
  have hmax := tableOrder_le (decode w)
  rw [hfirst, Option.map_some, Option.some_inj]
  omega

/-- Settles O3: a word selects its own row, ILLEGAL and perhaps RES.UNKNOWN (`order_of_selects`), of which its own
comes first. -/
theorem firstMatchingRowIsTheDecodedRow : Obligations.FirstMatchingRowIsTheDecodedRow := by
  refine ⟨opcodeTable_orders, firstRow_order, fun w p hp q hq hlt hpsel hqsel => ?_⟩
  have hpcases := order_of_selects hp hpsel
  have hqcases := order_of_selects hq hqsel
  have hmax := tableOrder_le (decode w)
  omega

/-! ERROR(IllegalCommand) comes from the row ILLEGAL alone. -/

/-- A word that decodes to an ILLEGAL is a word of R66, and that ILLEGAL keeps it. -/
theorem decode_eq_illegal_iff {w v : Command} : decode w = .illegal v ↔ v = w ∧ spellsNoOperation w = true := by
  refine ⟨fun h => ?_, fun ⟨hv, hw⟩ => by rw [decode_of_spellsNoOperation hw, hv]⟩
  have hspelled := spelledBy_decode w
  rw [h] at hspelled
  obtain ⟨hwf, rfl⟩ := hspelled
  exact ⟨rfl, hwf⟩

namespace Machine

/-- A value behind a check that raises another error. -/
theorem delivered_ite_ne_illegalCommand {c : Prop} [Decidable c] {u : PhysUnit} {v : Int} {k : ErrKind}
    (hk : k ≠ .illegalCommand) :
    delivered (if c then .ok (.value u v) else .error k) ≠ .error .illegalCommand := by
  split
  · exact nofun
  · exact fun h => hk (Result.error.inj h)

section
variable (s : State)

theorem readMessageType_ne_illegalCommand : delivered (readMessageType s) ≠ .error .illegalCommand := by
  rcases Nat.eq_zero_or_pos s.len with h | h
  · rw [readMessageType_of_empty h]; exact nofun
  · rw [readMessageType_of_pos h]; exact delivered_ite_ne_illegalCommand nofun

theorem readOperationMode_ne_illegalCommand : delivered (readOperationMode s) ≠ .error .illegalCommand := by
  rcases Nat.eq_zero_or_pos s.len with h | h
  · rw [readOperationMode_of_empty h]; exact nofun
  · rw [readOperationMode_of_pos h]
    cases operationModeOfCode ((s.byte 0).toNat % 16) <;> exact nofun

theorem dispatch_ne_illegalCommand {f : Except ErrKind Result} (hf : delivered f ≠ .error .illegalCommand) :
    delivered (dispatch s f) ≠ .error .illegalCommand := by
  rcases telegram_cases s with h | h | h | h
  · rw [dispatch_empty h]; exact nofun
  · rw [dispatch_basic h]; exact hf
  · rw [dispatch_other h]; exact nofun
  · rw [dispatch_invalid h]; exact nofun

/-- Whatever a telegram holds, no other row answers IllegalCommand. -/
theorem outcomeOf_ne_illegalCommand {i : Instr} (hi : ∀ w, i ≠ .illegal w) :
    delivered (outcomeOf i s) ≠ .error .illegalCommand := by
  cases i
  case bit => rw [outcomeOf, readBit_eq]; exact delivered_ite_ne_illegalCommand nofun
  case msk => rw [outcomeOf, readMasked_eq]; exact delivered_ite_ne_illegalCommand nofun
  case ext => rw [outcomeOf, readRange_eq]; exact delivered_ite_ne_illegalCommand nofun
  case ext2 => rw [outcomeOf, readRangeOfPair_eq]; exact delivered_ite_ne_illegalCommand nofun
  case mtdec => exact readMessageType_ne_illegalCommand s
  case omdec => exact readOperationMode_ne_illegalCommand s
  case illegal w => exact absurd rfl (hi w)
  all_goals apply dispatch_ne_illegalCommand
  case resAirQuality1 => rw [airQuality1, airQuality_eq]; exact delivered_ite_ne_illegalCommand nofun
  case resAirQuality2 => rw [airQuality2, airQuality_eq]; exact delivered_ite_ne_illegalCommand nofun
  case resOutdoorTemp => rw [outdoorTemp_eq]; exact delivered_ite_ne_illegalCommand nofun
  case resSupplyTemp => rw [supplyTemp_eq]; exact delivered_ite_ne_illegalCommand nofun
  case resOperationMode => exact readOperationMode_ne_illegalCommand s
  case resIndoorTemp | resExhaustTemp | resSupplyFlow | resExhaustFlow | resSupplyFanSpeed
      | resExhaustFanSpeed | resUnknown => exact nofun
  all_goals
    refine ne_of_eq_of_ne (congrArg delivered (flag_eq s _ _ _)) ?_
    exact delivered_ite_ne_illegalCommand nofun

/-- The response to an instruction stands for no result but the one delivered. -/
theorem unpack_rsp_exec (i : Instr) :
    unpack (delivered (outcomeOf i s)).pack = some (delivered (outcomeOf i s)) := by
  have h := resultOf_exec i s
  rwa [exec_eq, resultOf] at h

theorem exec_rsp_ne_illegalCommand {i : Instr} (hi : ∀ w, i ≠ .illegal w) :
    (delivered (outcomeOf i s)).pack ≠ (Result.error .illegalCommand).pack := by
  intro h
  have hread := unpack_rsp_exec s i
  rw [h, unpack_pack_error, Option.some_inj] at hread
  exact outcomeOf_ne_illegalCommand s hi hread.symm

end

/-- Settles O5. -/
theorem illegalAnswersIllegalCommandOnEveryTelegram : Obligations.IllegalAnswersIllegalCommandOnEveryTelegram :=
  fun w s => exec_eq (.illegal w) s

/-- Settles O4: the words of R66 are those that decode to ILLEGAL, and no other row answers with its response. -/
theorem illegalWordsAndOnlyTheseAnswerIllegalCommand :
    Obligations.IllegalWordsAndOnlyTheseAnswerIllegalCommand := by
  intro s op noOperation
  have hwords : noOperation ↔ spellsNoOperation s.cmd = true := (spellsNoOperation_iff s.cmd).symm
  refine ⟨fun h => ?_, fun h t ht => ?_⟩
  · exact step_of_decode (decode_of_spellsNoOperation (hwords.1 h))
  · rw [step_eq] at ht
    cases ht
    exact exec_rsp_ne_illegalCommand s fun w hw => h (hwords.2 (decode_eq_illegal_iff.1 hw).2)

end Machine

end Sys2Proof

/-! PROOFS. The statements of 30_encoding.md on responses: the response word and its result, the units of the producers,
and the operation-mode table. -/

namespace Sys2Proof.Machine

/-! The response word (R70): a result fixes its fields, and the fields are the whole word. -/

section
variable (tag : Tag) (err : BitVec 2) (unit : BitVec 4) (val : BitVec 20)

@[simp] theorem tagField_responseWord : tagField (responseWord tag err unit val) = tag.code := by
  obtain ⟨htag, -⟩ := responseWord_fields tag err unit val
  exact htag

@[simp] theorem errField_responseWord : errField (responseWord tag err unit val) = err := by
  obtain ⟨-, herr, -⟩ := responseWord_fields tag err unit val
  exact herr

@[simp] theorem unitField_responseWord : unitField (responseWord tag err unit val) = unit := by
  obtain ⟨-, -, hunit, -⟩ := responseWord_fields tag err unit val
  exact hunit

@[simp] theorem zeroField_responseWord : zeroField (responseWord tag err unit val) = 0 := by
  obtain ⟨-, -, -, hzero, -⟩ := responseWord_fields tag err unit val
  exact hzero

@[simp] theorem valField_responseWord : valField (responseWord tag err unit val) = val := by
  obtain ⟨-, -, -, -, hval⟩ := responseWord_fields tag err unit val
  exact hval

end

section
variable {r : Result}

theorem tagField_pack : tagField r.pack = r.tag.code := by
  cases r <;> exact tagField_responseWord ..

theorem zeroField_pack : zeroField r.pack = 0 := by
  cases r <;> exact zeroField_responseWord ..

theorem unitField_pack_value (u : PhysUnit) (v : Int) : unitField (Result.value u v).pack = u.code :=
  unitField_responseWord ..

theorem valField_pack_value (u : PhysUnit) (v : Int) :
    valField (Result.value u v).pack = BitVec.ofInt 20 v :=
  valField_responseWord ..

/-- `err` is 0 unless the tag is ERROR. -/
theorem errField_pack (h : r.tag ≠ .error) : errField r.pack = 0 := by
  cases r with
  | error k => exact absurd rfl h
  | _ => exact errField_responseWord ..

/-- `unit` and `val` are 0 unless the tag is VALUE. -/
theorem unit_val_pack (h : ∀ u v, r ≠ .value u v) : unitField r.pack = 0 ∧ valField r.pack = 0 := by
  cases r with
  | value u v => exact absurd rfl (h u v)
  | _ => exact ⟨unitField_responseWord .., valField_responseWord ..⟩

theorem unpack_pack (h : ∀ u v, r ≠ .value u v) : unpack r.pack = some r := by
  cases r with
  | value u v => exact absurd rfl (h u v)
  | undefined => exact unpack_pack_undefined
  | unsupported => exact unpack_pack_unsupported
  | error k => exact unpack_pack_error k

end

/-- The number in the low 20 bits is the value modulo 2^20. -/
theorem valField_pack_value_toNat (u : PhysUnit) (v : Int) :
    ((valField (Result.value u v).pack).toNat : Int) = v % 2 ^ 20 := by
  rw [valField_pack_value, BitVec.toNat_ofInt]
  exact Int.toNat_of_nonneg (Int.emod_nonneg v (by decide))

theorem readValue_pack_value (u : PhysUnit) {v : Int} (hlo : -(2 ^ 19) ≤ v) (hhi : v < 2 ^ 19) :
    readValue (Result.value u v).pack = v := by
  rw [readValue, valField_pack_value, toInt_ofInt_val hlo hhi]

/-- Every reachable value fits the signed `val` field. -/
theorem fits_of_reachable {u : PhysUnit} {v : Int} (h : (Result.value u v).reachable = true) :
    -(2 ^ 19) ≤ v ∧ v < 2 ^ 19 := by
  cases u <;> simp only [Result.reachable, decide_eq_true_eq, Bool.false_eq_true] at h <;> omega

/-- Settles O41: the fields, the constant words, and the way back. -/
theorem responseWordHoldsItsResult : Obligations.ResponseWordHoldsItsResult := by
  refine ⟨fun u v hlo hhi => ?_, rfl, rfl, rfl, rfl, rfl, fun r hr => ?_, fun u v => fits_of_reachable⟩
  · refine ⟨tagField_pack, errField_pack nofun, zeroField_pack, ?_, valField_pack_value_toNat u v,
      readValue_pack_value u hlo hhi, unpack_pack_value u hlo hhi⟩
    rw [unitField_pack_value]
    cases u <;> rfl
  · obtain ⟨hunit, hval⟩ := unit_val_pack hr
    exact ⟨unpack_pack hr, tagField_pack, hunit, zeroField_pack, hval, errField_pack⟩

/-- The fields side by side are the whole word. -/
theorem response_fields (w : Response) :
    tagField w ++ errField w ++ unitField w ++ zeroField w ++ valField w = w := by
  apply BitVec.eq_of_toNat_eq
  simp only [append_toNat, tagField, errField, unitField, zeroField, valField, BitVec.extractLsb,
    BitVec.extractLsb'_toNat, Nat.shiftRight_eq_div_pow]
  omega

theorem code_readTag (w : Response) : (readTag w).code = tagField w := by
  unfold readTag
  generalize tagField w = c
  revert c
  decide

theorem code_of_unitOfCode : ∀ c : BitVec 4, ∀ u ∈ unitOfCode c, u.code = c := by decide

theorem code_of_errKindOfCode : ∀ c : BitVec 2, ∀ k ∈ errKindOfCode c, k.code = c := by decide

/-- A word with zero in bits 23:20 is put together from what a consumer reads. -/
theorem responseWord_of_fields {w : Response} (hzero : zeroField w = 0) :
    responseWord (readTag w) (errField w) (unitField w) (valField w) = w := by
  have hw := response_fields w
  rwa [hzero, ← code_readTag] at hw

/-- Settles O42, by the tag that a consumer reads. -/
theorem responseWordsAreReadInOneWay : Obligations.ResponseWordsAreReadInOneWay := by
  intro w r h
  rw [unpack, Option.ite_none_left_eq_some, not_not] at h
  obtain ⟨hzero, h⟩ := h
  have hw := responseWord_of_fields hzero
  cases htag : readTag w <;> simp only [htag, Option.ite_none_right_eq_some, Option.map_eq_some_iff] at h hw
  case value =>
    obtain ⟨herr, u, hu, rfl⟩ := h
    have hval : BitVec.ofInt 20 (readValue w) = valField w := BitVec.ofInt_toInt
    rwa [herr, ← code_of_unitOfCode _ u hu, ← hval] at hw
  case undefined | unsupported =>
    obtain ⟨hpack, hr⟩ := h
    cases hr
    exact hpack.symm
  case error =>
    obtain ⟨⟨hunit, hval⟩, k, hk, rfl⟩ := h
    rwa [hunit, hval, ← code_of_errKindOfCode _ k hk] at hw

/-! The units of the producers (R34, R73, R74). -/

section
variable {i : Instr} {u : PhysUnit} {lo hi : Int} (hrange : valueRange i = some (u, lo, hi))
include hrange

/-- No instruction answers with a value in one of the two units that wait for a decoder. -/
theorem valueRange_unit_ne : u ≠ .m3PerH ∧ u ≠ .hertz := by
  cases i <;> cases hrange <;> decide

theorem valueRange_unit_of_generic (hi : genericOffset i ≠ none) : u = .raw := by
  cases i
  case bit | msk | ext | ext2 => cases hrange; rfl
  all_goals exact absurd rfl hi

/-- A channel's values are in its declared unit. -/
theorem declaredUnit_of_valueRange {chan : BitVec 8} (hchan : i.channelCode = some chan) :
    declaredUnit chan = some u := by
  cases i
  case bit | msk | ext | ext2 | mtdec | omdec | illegal => cases hchan
  case resIndoorTemp | resExhaustTemp | resSupplyFlow | resExhaustFlow | resSupplyFanSpeed
      | resExhaustFanSpeed | resUnknown => cases hrange
  all_goals cases hrange; cases hchan; rfl

end

/-- Settles O40: the unit of R34 is that of R74. -/
theorem channelValuesCarryTheirDeclaredUnit : Obligations.ChannelValuesCarryTheirDeclaredUnit := by
  intro i c s u v hchan h
  obtain ⟨lo, hi, hrange, -, -⟩ := value_withinRange h
  exact ⟨declaredUnit_of_valueRange hrange hchan, valueRange_unit_ne hrange⟩

/-- The codes of R73 for the declared units of R74, on the channels that answer with a value. -/
theorem declaredUnit_codes : ∀ c : BitVec 8, ∀ u ∈ declaredUnit c,
    (1 ≤ c.toNat → c.toNat ≤ 3 → u.code = 2#4) ∧ (c.toNat = 0 ∨ (4 ≤ c.toNat ∧ c.toNat ≤ 13) → u.code = 1#4) ∧
    (c.toNat = 14 ∨ c.toNat = 15 → u.code = 3#4) ∧ (c.toNat = 16 ∨ c.toNat = 17 → u.code = 4#4) ∧
    (c.toNat = 24 → u.code = 8#4) := by
  decide

theorem unit_code_range {u : PhysUnit} (h : u ≠ .m3PerH ∧ u ≠ .hertz) :
    u.code.toNat ≤ 8 ∧ u.code ≠ 5#4 ∧ u.code ≠ 6#4 := by
  obtain ⟨hm3PerH, hhertz⟩ := h
  cases u
  case m3PerH => exact absurd rfl hm3PerH
  case hertz => exact absurd rfl hhertz
  all_goals decide

/-- Settles O59: the unit of a VALUE is that of its producer's range, and no other response has a unit. -/
theorem responsesCarryTheUnitCodesOfTheirProducers : Obligations.ResponsesCarryTheUnitCodesOfTheirProducers := by
  intro i s t h
  rw [exec_eq] at h
  cases h
  cases hr : delivered (outcomeOf i s) with
  | value u v =>
    obtain ⟨lo, hi, hrange, -, -⟩ := outcomeOf_withinRange i s u v (delivered_eq_value.1 hr)
    obtain ⟨hle, h5, h6⟩ := unit_code_range (valueRange_unit_ne hrange)
    rw [unitField_pack_value]
    refine ⟨hle, h5, h6, fun _ => ⟨fun hgeneric => ?_, ?_, ?_, fun c hchan => ?_⟩⟩
    · rw [valueRange_unit_of_generic hrange hgeneric]; rfl
    · rintro rfl; cases hrange; rfl
    · rintro rfl; cases hrange; rfl
    · exact declaredUnit_codes c u (declaredUnit_of_valueRange hrange hchan)
  | undefined | unsupported | error =>
    obtain ⟨hunit, -⟩ := unit_val_pack (r := delivered (outcomeOf i s)) (by rw [hr]; exact nofun)
    rw [hr] at hunit
    rw [hunit, tagField_pack]
    exact ⟨by decide, by decide, by decide, nofun⟩

/-! The operation-mode table (R76). -/

theorem operationModeOfCode_isSome (c : Nat) :
    (operationModeOfCode c).isSome = true ↔ c ∈ [0, 1, 2, 3, 4, 11, 12, 13, 14] := by
  unfold operationModeOfCode
  split <;> simp_all

theorem operationModeOfCode_ordinal {c : Nat} {m : OperationMode} (h : operationModeOfCode c = some m) :
    (m.ordinal : Int) = if c ≤ 4 then (c : Int) else (c : Int) - 6 := by
  unfold operationModeOfCode at h
  split at h <;> cases h <;> rfl

/-- A mode has one code: its ordinal gives the code back. -/
theorem operationModeOfCode_inj {c d : Nat} {m : OperationMode} (hc : operationModeOfCode c = some m)
    (hd : operationModeOfCode d = some m) : c = d := by
  have hcmem := (operationModeOfCode_isSome c).1 (by rw [hc]; rfl)
  have hdmem := (operationModeOfCode_isSome d).1 (by rw [hd]; rfl)
  have hordinal := (operationModeOfCode_ordinal hc).symm.trans (operationModeOfCode_ordinal hd)
  simp only [List.mem_cons, List.not_mem_nil, or_false] at hcmem hdmem
  omega

theorem exists_code_of_operationMode (m : OperationMode) : ∃ c, c ≤ 15 ∧ operationModeOfCode c = some m := by
  cases m
  case off => exact ⟨0, by decide, rfl⟩
  case level1 => exact ⟨1, by decide, rfl⟩
  case level2 => exact ⟨2, by decide, rfl⟩
  case level3 => exact ⟨3, by decide, rfl⟩
  case level4 => exact ⟨4, by decide, rfl⟩
  case automatic => exact ⟨11, by decide, rfl⟩
  case automaticOnDemand => exact ⟨12, by decide, rfl⟩
  case supplyAirOnly => exact ⟨13, by decide, rfl⟩
  case exhaustAirOnly => exact ⟨14, by decide, rfl⟩

/-- Settles O17: the table read both ways, and OMDEC answers with its ordinal. -/
theorem operationModeTableIsABijection : Obligations.OperationModeTableIsABijection := by
  refine ⟨operationModeOfCode_isSome, fun c d m => operationModeOfCode_inj, exists_code_of_operationMode,
    fun c m => operationModeOfCode_ordinal, rfl, fun s hpos => ?_⟩
  rw [exec_of_outcome (i := .omdec) (readOperationMode_of_pos hpos)]
  cases operationModeOfCode ((s.byte 0).toNat % 16) <;> rfl

end Sys2Proof.Machine

/-! PROOFS. The statements of 30_encoding.md on the assembler: each line as the word that its operands spell, and what
the pseudo-instructions read. -/

namespace Sys2Proof.Machine

/-! The sums of R77 are the encodings of the commands, for operands that fit their fields. -/

theorem encode_bit_ofNat {boff bit : Nat} (hboff : boff ≤ 15) (hbit : bit ≤ 7) :
    encode (.bit (BitVec.ofNat 4 boff) (BitVec.ofNat 3 bit)) =
      BitVec.ofNat 16 ((0 <<< 13) + (boff <<< 9) + bit) := by
  apply BitVec.eq_of_toNat_eq
  simp only [encode_bit_toNat, BitVec.toNat_ofNat, Nat.shiftLeft_eq]
  omega

theorem encode_msk_ofNat {boff mask : Nat} (hboff : boff ≤ 15) (hmask : mask ≤ 255) :
    encode (.msk (BitVec.ofNat 4 boff) (BitVec.ofNat 8 mask)) =
      BitVec.ofNat 16 ((1 <<< 13) + (boff <<< 9) + mask) := by
  apply BitVec.eq_of_toNat_eq
  simp only [encode_msk_toNat, BitVec.toNat_ofNat, Nat.shiftLeft_eq]
  omega

theorem encode_ext_ofNat {boff lsb width : Nat} (hboff : boff ≤ 15) (hlsb : lsb ≤ 15) (hwidth : width ≤ 31) :
    encode (.ext (BitVec.ofNat 4 boff) (BitVec.ofNat 4 lsb) (BitVec.ofNat 5 width)) =
      BitVec.ofNat 16 ((2 <<< 13) + (boff <<< 9) + (lsb <<< 5) + width) := by
  apply BitVec.eq_of_toNat_eq
  simp only [encode_ext_toNat, BitVec.toNat_ofNat, Nat.shiftLeft_eq]
  omega

theorem encode_ext2_ofNat {boff lsb width : Nat} (hboff : boff ≤ 15) (hlsb : lsb ≤ 15) (hwidth : width ≤ 31) :
    encode (.ext2 (BitVec.ofNat 4 boff) (BitVec.ofNat 4 lsb) (BitVec.ofNat 5 width)) =
      BitVec.ofNat 16 ((3 <<< 13) + (boff <<< 9) + (lsb <<< 5) + width) := by
  apply BitVec.eq_of_toNat_eq
  simp only [encode_ext2_toNat, BitVec.toNat_ofNat, Nat.shiftLeft_eq]
  omega

theorem formatC_ofNat {chan : Nat} (hchan : chan ≤ 255) :
    formatC (BitVec.ofNat 8 chan) = BitVec.ofNat 16 (0xC000 + chan) := by
  apply BitVec.eq_of_toNat_eq
  simp only [formatC_toNat, BitVec.toNat_ofNat]
  omega

/-! Each line: in range the encoding of its command, out of range an assembly error. -/

theorem assemble_bit (boff bit : Nat) : assemble (.bit boff bit) = if boff ≤ 15 ∧ bit ≤ 7
    then some (encode (.bit (BitVec.ofNat 4 boff) (BitVec.ofNat 3 bit))) else none :=
  ite_congr rfl (fun ⟨hboff, hbit⟩ => by
    simp only [encode_bit_ofNat hboff hbit, Nat.shiftLeft_eq]) fun _ => rfl

theorem assemble_msk (boff mask : Nat) : assemble (.msk boff mask) = if boff ≤ 15 ∧ mask ≤ 255
    then some (encode (.msk (BitVec.ofNat 4 boff) (BitVec.ofNat 8 mask))) else none :=
  ite_congr rfl (fun ⟨hboff, hmask⟩ => by
    simp only [encode_msk_ofNat hboff hmask, Nat.shiftLeft_eq]) fun _ => rfl

theorem assemble_ext (boff lsb width : Nat) :
    assemble (.ext boff lsb width) = if boff ≤ 15 ∧ lsb ≤ 15 ∧ width ≤ 31
      then some (encode (.ext (BitVec.ofNat 4 boff) (BitVec.ofNat 4 lsb) (BitVec.ofNat 5 width))) else none :=
  ite_congr rfl (fun ⟨hboff, hlsb, hwidth⟩ => by
    simp only [encode_ext_ofNat hboff hlsb hwidth, Nat.shiftLeft_eq]) fun _ => rfl

theorem assemble_ext2 (boff lsb width : Nat) :
    assemble (.ext2 boff lsb width) = if boff ≤ 15 ∧ lsb ≤ 15 ∧ width ≤ 31
      then some (encode (.ext2 (BitVec.ofNat 4 boff) (BitVec.ofNat 4 lsb) (BitVec.ofNat 5 width))) else none :=
  ite_congr rfl (fun ⟨hboff, hlsb, hwidth⟩ => by
    simp only [encode_ext2_ofNat hboff hlsb hwidth, Nat.shiftLeft_eq]) fun _ => rfl

theorem assemble_res (chan : Nat) :
    assemble (.res chan) = if chan ≤ 255 then some (formatC (BitVec.ofNat 8 chan)) else none :=
  ite_congr rfl (fun h => by rw [formatC_ofNat h]) fun _ => rfl

/-- `.word` accepts a word exactly when it decodes to ILLEGAL. -/
theorem illegalCase_isSome_iff (w : Command) : (illegalCase w).isSome = true ↔ decode w = .illegal w := by
  refine ⟨fun h => ?_, fun h => ?_⟩
  · obtain ⟨c, hc⟩ := Option.isSome_iff_exists.1 h
    exact decode_of_illegalCase hc
  · obtain ⟨-, hw⟩ := decode_eq_illegal_iff.1 h
    rcases (spellsNoOperation_iff w).1 hw with h7 | ⟨h0, hz⟩ | ⟨h1, hz⟩ | ⟨h4 | h5, hz⟩ | ⟨h6, hz⟩
    · simp [illegalCase, h7]
    · simpa [illegalCase, h0] using hz
    · simpa [illegalCase, h1] using hz
    · simpa [illegalCase, h4] using hz
    · simpa [illegalCase, h5] using hz
    · simpa [illegalCase, h6] using hz

theorem assemble_word (w : Command) :
    assemble (.word w) = if decode w = .illegal w then some w else none :=
  ite_congr (propext (illegalCase_isSome_iff w)) (fun _ => rfl) fun _ => rfl

/-- Settles O7: an assembled line is the encoding of its command, which O1 decodes. -/
theorem assemblerLinesSpellTheirCommands : Obligations.AssemblerLinesSpellTheirCommands := by
  refine ⟨fun boff bit hboff hbit => ?_, fun boff mask hboff hmask => ?_,
    fun boff lsb width hboff hlsb hwidth => ?_, rfl, rfl, fun chan hchan => ?_, fun boff bit h => ?_,
    fun boff mask h => ?_, fun boff lsb width h => ?_, fun chan h => ?_, fun w => ?_⟩
  · rw [assemble_bit, if_pos ⟨hboff, hbit⟩, Option.map_some, decode_encode_bit, encode_bit_ofNat hboff hbit]
    exact ⟨rfl, rfl⟩
  · rw [assemble_msk, if_pos ⟨hboff, hmask⟩, Option.map_some, decode_encode_msk, encode_msk_ofNat hboff hmask]
    exact ⟨rfl, rfl⟩
  · have hrange : boff ≤ 15 ∧ lsb ≤ 15 ∧ width ≤ 31 := ⟨hboff, hlsb, hwidth⟩
    rw [assemble_ext, assemble_ext2, if_pos hrange, if_pos hrange, Option.map_some, Option.map_some,
      decode_encode_ext, decode_encode_ext2, encode_ext_ofNat hboff hlsb hwidth,
      encode_ext2_ofNat hboff hlsb hwidth]
    exact ⟨rfl, rfl, rfl, rfl⟩
  · obtain ⟨hcode, -⟩ := decodeChannel_spec (BitVec.ofNat 8 chan)
    rw [assemble_res, if_pos hchan, Option.map_some, decode_formatC, hcode, formatC_ofNat hchan]
    exact ⟨rfl, rfl⟩
  · rw [assemble_bit, if_neg (by omega)]
  · rw [assemble_msk, if_neg (by omega)]
  · rw [assemble_ext, assemble_ext2, if_neg (by omega), if_neg (by omega)]
    exact ⟨rfl, rfl⟩
  · rw [assemble_res, if_neg (by omega)]
  · rw [assemble_word]
    exact ⟨fun h => if_pos h, fun h => if_neg h⟩

/-! What the pseudo-instructions read (R78). -/

/-- What a consumer reads from the step on a line's word; `none` when the line is an assembly error. -/
def valueOfLine (l : AsmLine) (s : State) : Option (Option Int) :=
  (assemble l).map fun w => valueOf (step { s with cmd := w })

/-- The line's word runs the line's command. -/
theorem valueOfLine_of_outcome {l : AsmLine} {i : Instr} {s : State} {u : PhysUnit} {v : Int}
    (hl : assemble l = some (encode i)) (hi : i.wellFormed = true)
    (hout : outcomeOf i { s with cmd := encode i } = .ok (.value u v)) :
    valueOfLine l s = some (some v) := by
  have hstep : step { s with cmd := encode i } = exec i { s with cmd := encode i } := by
    rw [step, fetch, decodeInvertsEncode i hi]
  rw [valueOfLine, hl, Option.map_some, hstep, valueOf, resultOf_exec, hout]
  rfl

theorem assemble_expand (l : AsmLine) : assemble l.expand = assemble l := by cases l <;> rfl

section
variable {s : State} {boff : Nat} {l : AsmLine}

/-- An offset in bounds fits its four bits. -/
theorem byteOffset_ofNat (h : boff < s.len) : boff ≤ 15 ∧ (BitVec.ofNat 4 boff).toNat = boff := by
  have hlen := len_le s
  exact ⟨by omega, Nat.mod_eq_of_lt (by omega)⟩

/-- A line that stands for MSK. -/
theorem valueOfLine_msk {mask : Nat} (hl : l.expand = .msk boff mask) (hmask : mask ≤ 255) (h : boff < s.len) :
    valueOfLine l s = some (some (((s.byte boff).toNat &&& mask : Nat) : Int)) := by
  obtain ⟨hle, hboff⟩ := byteOffset_ofNat h
  have hm : (BitVec.ofNat 8 mask).toNat = mask := Nat.mod_eq_of_lt (by omega)
  have hword := assemble_expand l
  rw [hl, assemble_msk, if_pos ⟨hle, hmask⟩] at hword
  refine valueOfLine_of_outcome (u := .raw) hword.symm rfl ?_
  rw [outcomeOf, readMasked_eq, hboff, len_of_cmd, if_pos h, byte_of_cmd, BitVec.toNat_and, hm]

/-- A line that stands for EXT. -/
theorem valueOfLine_ext {lsb width : Nat} (hl : l.expand = .ext boff lsb width) (hlsb : lsb ≤ 15)
    (hwidth : width ≤ 31) (h : boff < s.len) :
    valueOfLine l s = some (some (((s.byte boff).toNat / 2 ^ lsb % 2 ^ width : Nat) : Int)) := by
  obtain ⟨hle, hboff⟩ := byteOffset_ofNat h
  have hk : (BitVec.ofNat 4 lsb).toNat = lsb := Nat.mod_eq_of_lt (by omega)
  have hn : (BitVec.ofNat 5 width).toNat = width := Nat.mod_eq_of_lt (by omega)
  have hword := assemble_expand l
  rw [hl, assemble_ext, if_pos ⟨hle, hlsb, hwidth⟩] at hword
  refine valueOfLine_of_outcome (u := .raw) hword.symm rfl ?_
  rw [outcomeOf, readRange_eq, hboff, hk, hn, len_of_cmd, if_pos h, byte_of_cmd]

/-- A line that stands for EXT2. -/
theorem valueOfLine_ext2 {lsb width : Nat} (hl : l.expand = .ext2 boff lsb width) (hlsb : lsb ≤ 15)
    (hwidth : width ≤ 31) (h : boff + 1 < s.len) :
    valueOfLine l s = some (some
      ((((s.byte boff).toNat * 256 + (s.byte (boff + 1)).toNat) / 2 ^ lsb % 2 ^ width : Nat) : Int)) := by
  obtain ⟨hle, hboff⟩ := byteOffset_ofNat (Nat.lt_of_succ_lt h)
  have hk : (BitVec.ofNat 4 lsb).toNat = lsb := Nat.mod_eq_of_lt (by omega)
  have hn : (BitVec.ofNat 5 width).toNat = width := Nat.mod_eq_of_lt (by omega)
  have hword := assemble_expand l
  rw [hl, assemble_ext2, if_pos ⟨hle, hlsb, hwidth⟩] at hword
  refine valueOfLine_of_outcome (u := .raw) hword.symm rfl ?_
  rw [outcomeOf, readRangeOfPair_eq, hboff, hk, hn, len_of_cmd, if_pos h]
  simp only [byte_of_cmd]

end

/-- Settles O8: the masks keep 8, 7 and 4 low bits, the ranges the high nibble and the whole pair. -/
theorem pseudoInstructionsReadWhatTheySay : Obligations.PseudoInstructionsReadWhatTheySay := by
  intro s boff b run
  have hb : b < 256 := byte_lt s boff
  have hnext := byte_lt s (boff + 1)
  refine ⟨fun h => ⟨?_, ?_, ?_, ?_⟩, fun h => ?_⟩
  · have hkeep : b &&& 0xFF = b := (Nat.and_two_pow_sub_one_eq_mod b 8).trans (Nat.mod_eq_of_lt hb)
    exact (valueOfLine_msk rfl (by decide) h).trans (by rw [hkeep])
  · exact (valueOfLine_msk rfl (by decide) h).trans (by rw [low7_eq]; rfl)
  · exact (valueOfLine_msk rfl (by decide) h).trans (by rw [low4_eq]; rfl)
  · have hshift : b / 2 ^ 4 % 2 ^ 4 = b / 16 := by omega
    exact (valueOfLine_ext rfl (by decide) (by decide) h).trans (by rw [hshift]; rfl)
  · have hpair : (b * 256 + (s.byte (boff + 1)).toNat) / 2 ^ 0 % 2 ^ 16 =
        b * 256 + (s.byte (boff + 1)).toNat := by omega
    exact (valueOfLine_ext2 rfl (by decide) (by decide) h).trans (by rw [hpair]; rfl)

end Sys2Proof.Machine

/-! PROOFS. The statements of 30_encoding.md on the written form: numbers in three bases, words, and channel names. -/

namespace Sys2Proof.Machine

/-! Digits: what is read from a text, digit by digit. -/

theorem digitsFrom_cons {base n d : Nat} {c : Char} {cs : List Char} (h : digitOf base c = some d) :
    digitsFrom base n (c :: cs) = digitsFrom base (n * base + d) cs := by
  rw [digitsFrom, h]

theorem digitsFrom_append (base n : Nat) (cs ds : List Char) :
    digitsFrom base n (cs ++ ds) = (digitsFrom base n cs).bind fun m => digitsFrom base m ds := by
  induction cs generalizing n with
  | nil => rfl
  | cons c cs ih =>
    rw [List.cons_append, digitsFrom, digitsFrom]
    cases digitOf base c with
    | none => rfl
    | some d => exact ih _

/-- `spell` writes the digits of a base by characters that are read back. -/
def ReadsBack (base : Nat) (spell : Char → Char) : Prop :=
  ∀ d < base, digitOf base (spell (Nat.digitChar d)) = some d

theorem readsBack_decimal : ReadsBack 10 id := by unfold ReadsBack; decide

theorem readsBack_binary : ReadsBack 2 id := by unfold ReadsBack; decide

theorem readsBack_hexLower : ReadsBack 16 id := by unfold ReadsBack; decide

theorem readsBack_hexUpper : ReadsBack 16 Char.toUpper := by unfold ReadsBack; decide

/-- The digits of a number are read back as the number, by its last digit and those before it. -/
theorem digitsFrom_toDigits {base : Nat} {spell : Char → Char} (hbase : 1 < base) (h : ReadsBack base spell)
    (n : Nat) : digitsFrom base 0 ((Nat.toDigits base n).map spell) = some n := by
  induction n using Nat.strong_induction_on with
  | _ n ih =>
    rw [Nat.toDigits_eq_if hbase]
    split
    next hn => simp [digitsFrom_cons (h n hn), digitsFrom]
    next hn =>
      have hquot : n / base < n := Nat.div_lt_self (by omega) hbase
      have hlast := h (n % base) (Nat.mod_lt n (by omega))
      rw [List.map_append, digitsFrom_append, ih _ hquot, Option.bind_some, List.map_singleton,
        digitsFrom_cons hlast, digitsFrom, Nat.div_add_mod']

/-! Numbers (R77): `0x` and `0b` select the base. -/

theorem numberOf_hex {cs : List Char} (h : cs ≠ []) : numberOf ('0' :: 'x' :: cs) = digitsFrom 16 0 cs := by
  cases cs with
  | nil => exact absurd rfl h
  | cons => rfl

theorem numberOf_binary {cs : List Char} (h : cs ≠ []) : numberOf ('0' :: 'b' :: cs) = digitsFrom 2 0 cs := by
  cases cs with
  | nil => exact absurd rfl h
  | cons => rfl

theorem numberOf_decimal {cs : List Char} (h : cs ≠ []) (hdigits : ∀ c ∈ cs, c.isDigit = true) :
    numberOf cs = digitsFrom 10 0 cs := by
  unfold numberOf
  split
  next => exact absurd rfl h
  next => exact absurd (hdigits 'x' (by simp)) (by decide)
  next => exact absurd (hdigits 'b' (by simp)) (by decide)
  next => rfl

theorem numberOf_toDigits (n : Nat) : numberOf (Nat.toDigits 10 n) = some n := by
  have hread := digitsFrom_toDigits (by decide) readsBack_decimal n
  rw [List.map_id] at hread
  rw [numberOf_decimal Nat.toDigits_ne_nil fun c => Nat.isDigit_of_mem_toDigits (by decide) (by decide), hread]

theorem numberOf_hex_toDigits {spell : Char → Char} (h : ReadsBack 16 spell) (n : Nat) :
    numberOf ('0' :: 'x' :: (Nat.toDigits 16 n).map spell) = some n := by
  rw [numberOf_hex (mt List.map_eq_nil_iff.1 Nat.toDigits_ne_nil), digitsFrom_toDigits (by decide) h]

theorem numberOf_binary_toDigits (n : Nat) : numberOf ('0' :: 'b' :: Nat.toDigits 2 n) = some n := by
  have hread := digitsFrom_toDigits (by decide) readsBack_binary n
  rw [List.map_id] at hread
  rw [numberOf_binary Nat.toDigits_ne_nil, hread]

/-- The four digits of a word (R77). -/
theorem wordOf_digits {spell : Char → Char} (h : ReadsBack 16 spell) (w : Command) :
    wordOf ('0' :: 'x' :: ([w.toNat / 4096, w.toNat / 256 % 16, w.toNat / 16 % 16, w.toNat % 16].map
      Nat.digitChar).map spell) = some w := by
  have hw := w.isLt
  have hsum : (((0 * 16 + w.toNat / 4096) * 16 + w.toNat / 256 % 16) * 16 + w.toNat / 16 % 16) * 16 +
      w.toNat % 16 = w.toNat := by omega
  simp only [List.map_cons, List.map_nil, wordOf]
  rw [digitsFrom_cons (h _ (by omega)), digitsFrom_cons (h _ (by omega)), digitsFrom_cons (h _ (by omega)),
    digitsFrom_cons (h _ (by omega)), digitsFrom, hsum, Option.map_some, BitVec.ofNat_toNat, BitVec.setWidth_eq]

/-! Channel names (R74). -/

theorem numberOf_channelMnemonic : ∀ m ∈ channelMnemonics, numberOf m.toList = none := by decide

theorem channelMnemonics_nodup : channelMnemonics.Nodup := by decide

/-- A channel name is no number, and stands in the list once. -/
theorem channelOf_mnemonic {k : Nat} (hk : k < channelMnemonics.length) :
    channelOf channelMnemonics[k].toList = some k := by
  rw [channelOf, numberOf_channelMnemonic _ (List.getElem_mem hk), String.ofList_toList]
  refine List.findIdx?_eq_some_iff_getElem.2 ⟨hk, beq_self_eq_true _, fun j hj heq => ?_⟩
  exact hj.ne (channelMnemonics_nodup.getElem_inj_iff.1 (eq_of_beq heq))

/-- The row of the opcode table for each channel name. -/
theorem opcodeTable_channelRow : ∀ k, ∀ hk : k < channelMnemonics.length, ∃ r ∈ opcodeTable,
    r.mnemonic = "RES." ++ channelMnemonics[k] ∧ r.pattern = formatC (BitVec.ofNat 8 k) := by
  decide

/-- Settles O58: digits in any base are read back (`digitsFrom_toDigits`), and the channel names are 25 different
texts, none of them a number. -/
theorem writtenNumbersAndChannelNamesAreReadBack : Obligations.WrittenNumbersAndChannelNamesAreReadBack := by
  refine ⟨fun n => ⟨numberOf_toDigits n, ?_, numberOf_hex_toDigits readsBack_hexUpper n,
    numberOf_binary_toDigits n⟩, fun w => ⟨?_, wordOf_digits readsBack_hexUpper w⟩, fun k hk => ?_⟩
  · simpa only [List.map_id] using numberOf_hex_toDigits readsBack_hexLower n
  · simpa only [List.map_id] using wordOf_digits readsBack_hexLower w
  · obtain ⟨r, hr, hmnemonic, hpattern⟩ := opcodeTable_channelRow k hk
    refine ⟨channelMnemonics[k], List.getElem?_eq_getElem hk, channelOf_mnemonic hk, r, hr, hmnemonic, ?_⟩
    rw [assemble_res, if_pos (by omega), hpattern]

end Sys2Proof.Machine

/-! PROOFS. The statements of 40_bitfield_reader.md: what each of the four generic reads answers, the words that spell
it, and how the reads agree with each other. -/

namespace Sys2Proof.Machine

/-! The encodings as the spec writes them, fields shifted to their places and ORed (R90 to R93). -/

theorem encode_bit_toNat_or (boff : BitVec 4) (bit : BitVec 3) :
    (encode (.bit boff bit)).toNat = (boff.toNat <<< 9) ||| bit.toNat := by
  simp only [encode, BitVec.toNat_append, BitVec.toNat_ofNat, Nat.zero_mod, Nat.zero_shiftLeft, Nat.zero_or,
    Nat.or_zero, ← Nat.shiftLeft_add]

theorem encode_msk_toNat_or (boff : BitVec 4) (mask : BitVec 8) :
    (encode (.msk boff mask)).toNat = 0x2000 ||| (boff.toNat <<< 9) ||| mask.toNat := by
  simp only [encode, BitVec.toNat_append, BitVec.toNat_ofNat, Nat.zero_mod, Nat.or_zero,
    Nat.shiftLeft_or_distrib, ← Nat.shiftLeft_add]
  rfl

theorem formatX_toNat_or (op : BitVec 3) (boff lsb : BitVec 4) (width : BitVec 5) :
    (op ++ boff ++ lsb ++ width).toNat =
      (op.toNat <<< 13) ||| (boff.toNat <<< 9) ||| (lsb.toNat <<< 5) ||| width.toNat := by
  simp only [BitVec.toNat_append, Nat.shiftLeft_or_distrib, ← Nat.shiftLeft_add]

theorem encode_ext_toNat_or (boff lsb : BitVec 4) (width : BitVec 5) :
    (encode (.ext boff lsb width)).toNat =
      0x4000 ||| (boff.toNat <<< 9) ||| (lsb.toNat <<< 5) ||| width.toNat :=
  formatX_toNat_or 2#3 boff lsb width

theorem encode_ext2_toNat_or (boff lsb : BitVec 4) (width : BitVec 5) :
    (encode (.ext2 boff lsb width)).toNat =
      0x6000 ||| (boff.toNat <<< 9) ||| (lsb.toNat <<< 5) ||| width.toNat :=
  formatX_toNat_or 3#3 boff lsb width

/-! A generic read is a value behind a bounds check. -/

section
variable {s : State} {i : Instr} {inBounds : Prop} [Decidable inBounds]

theorem exec_of_checkedRead {r : Result}
    (h : outcomeOf i s = if inBounds then .ok r else .error .bufferBounds) :
    (inBounds → exec i s = .next { s with rsp := r.pack }) ∧
      (¬ inBounds → exec i s = .next { s with rsp := (Result.error .bufferBounds).pack }) :=
  ⟨fun hin => exec_of_outcome (h.trans (if_pos hin)), fun hout => exec_of_outcome (h.trans (if_neg hout))⟩

theorem valueOf_of_checkedRead {u : PhysUnit} {v : Int} (hin : inBounds)
    (h : outcomeOf i s = if inBounds then .ok (.value u v) else .error .bufferBounds) :
    valueOf (exec i s) = some v := by
  rw [valueOf, resultOf_exec, h, if_pos hin, delivered_ok]

end

section
variable {s : State} {boff : BitVec 4}

theorem valueOf_msk (mask : BitVec 8) (h : boff.toNat < s.len) :
    valueOf (exec (.msk boff mask) s) = some ((s.byte boff.toNat &&& mask).toNat : Int) :=
  valueOf_of_checkedRead h (readMasked_eq s boff mask)

/-- The full mask keeps the whole byte. -/
theorem valueOf_msk_full (h : boff.toNat < s.len) :
    valueOf (exec (.msk boff 0xFF) s) = some ((s.byte boff.toNat).toNat : Int) := by
  have hfull : s.byte boff.toNat &&& 0xFF = s.byte boff.toNat := BitVec.and_allOnes
  rw [valueOf_msk 0xFF h, hfull]

theorem valueOf_ext (lsb : BitVec 4) (width : BitVec 5) (h : boff.toNat < s.len) :
    valueOf (exec (.ext boff lsb width) s) =
      some (((s.byte boff.toNat).toNat / 2 ^ lsb.toNat % 2 ^ width.toNat : Nat) : Int) :=
  valueOf_of_checkedRead h (readRange_eq s boff lsb width)

theorem valueOf_ext2 (lsb : BitVec 4) (width : BitVec 5) (h : boff.toNat + 1 < s.len) :
    valueOf (exec (.ext2 boff lsb width) s) =
      some ((((s.byte boff.toNat).toNat * 256 + (s.byte (boff.toNat + 1)).toNat) /
        2 ^ lsb.toNat % 2 ^ width.toNat : Nat) : Int) :=
  valueOf_of_checkedRead h (readRangeOfPair_eq s boff lsb width)

/-- The offset of the second byte of a pair in bounds does not wrap. -/
theorem nextOffset_toNat (h : boff.toNat + 1 < s.len) : (boff + 1).toNat = boff.toNat + 1 := by
  have hlen := len_le s
  exact BitVec.toNat_add_of_lt (y := 1) (show boff.toNat + 1 < 2 ^ 4 by omega)

end

/-! The arithmetic of bit ranges (R92, R93). -/

/-- The mask of a range that lies in a byte fits the mask field. -/
theorem rangeMask_toNat {k n : Nat} (h : k + n ≤ 8) :
    (BitVec.ofNat 8 ((2 ^ n - 1) <<< k)).toNat = (2 ^ n - 1) <<< k := by
  refine Nat.mod_eq_of_lt ?_
  calc (2 ^ n - 1) <<< k
      = (2 ^ n - 1) * 2 ^ k := Nat.shiftLeft_eq ..
    _ < 2 ^ n * 2 ^ k := Nat.mul_lt_mul_of_pos_right (Nat.sub_lt (by positivity) one_pos) (by positivity)
    _ = 2 ^ (k + n) := by rw [Nat.add_comm, pow_add]
    _ ≤ 2 ^ 8 := Nat.pow_le_pow_right two_pos h

/-- Masking a range in place and shifting it down is taking the range. -/
theorem and_rangeMask_div (v k n : Nat) : (v &&& (2 ^ n - 1) <<< k) / 2 ^ k = v / 2 ^ k % 2 ^ n := by
  rw [← Nat.shiftRight_eq_div_pow, Nat.shiftRight_and_distrib, Nat.shiftLeft_shiftRight,
    Nat.and_two_pow_sub_one_eq_mod, Nat.shiftRight_eq_div_pow]

/-- A range from bit 8 of a pair on is a range of its high byte. -/
theorem pair_div_of_ge {hi lo k : Nat} (hlo : lo < 256) (hk : 8 ≤ k) :
    (hi * 256 + lo) / 2 ^ k = hi / 2 ^ (k - 8) := by
  have hpow : 2 ^ k = 256 * 2 ^ (k - 8) := (pow_mul_pow_sub 2 hk).symm
  have hhigh : (hi * 256 + lo) / 256 = hi := by omega
  rw [hpow, ← Nat.div_div_eq_div_mul, hhigh]

/-- A range below bit 8 of a pair is a range of its low byte. -/
theorem pair_range_of_le {hi lo k n : Nat} (hlo : lo < 256) (hkn : k + n ≤ 8) :
    (hi * 256 + lo) / 2 ^ k % 2 ^ n = lo / 2 ^ k % 2 ^ n := by
  have hdvd : 2 ^ k * 2 ^ n ∣ 256 := pow_add 2 k n ▸ Nat.pow_dvd_pow 2 hkn
  have hlow : (hi * 256 + lo) % 256 = lo := by omega
  rw [← Nat.mod_mul_right_div_self, ← Nat.mod_mod_of_dvd _ hdvd, hlow, Nat.mod_mul_right_div_self]

section
variable {s : State} {boff lsb : BitVec 4} {width : BitVec 5}

/-- EXT of a range that lies in the byte is MSK of that range, shifted down (R92). -/
theorem valueOf_ext_eq_msk (h : boff.toNat < s.len) (hrange : lsb.toNat + width.toNat ≤ 8) :
    valueOf (exec (.ext boff lsb width) s) =
      (valueOf (exec (.msk boff (BitVec.ofNat 8 ((2 ^ width.toNat - 1) <<< lsb.toNat))) s)).map
        fun v => v / 2 ^ lsb.toNat := by
  rw [valueOf_ext lsb width h, valueOf_msk _ h, BitVec.toNat_and, rangeMask_toNat hrange, Option.map_some,
    ← and_rangeMask_div]
  norm_cast

/-- EXT2 of all 16 bits is the high byte before the low byte (R93). -/
theorem valueOf_ext2_full (h : boff.toNat + 1 < s.len) :
    valueOf (exec (.ext2 boff 0 16) s) =
      (valueOf (exec (.msk boff 0xFF) s)).bind fun hi =>
        (valueOf (exec (.msk (boff + 1) 0xFF) s)).map fun lo => 256 * hi + lo := by
  have hnext := nextOffset_toNat h
  have hhi := byte_lt s boff.toNat
  have hlo := byte_lt s (boff.toNat + 1)
  have hwhole : ((s.byte boff.toNat).toNat * 256 + (s.byte (boff.toNat + 1)).toNat) /
      2 ^ (0 : BitVec 4).toNat % 2 ^ (16 : BitVec 5).toNat =
        256 * (s.byte boff.toNat).toNat + (s.byte (boff.toNat + 1)).toNat := by
    change _ / 2 ^ 0 % 2 ^ 16 = _
    omega
  rw [valueOf_ext2 0 16 h, hwhole, valueOf_msk_full (Nat.lt_of_succ_lt h), valueOf_msk_full (hnext ▸ h), hnext]
  rfl

/-- EXT2 from bit 8 on is EXT of the high byte (R93). -/
theorem valueOf_ext2_high (h : boff.toNat + 1 < s.len) (hlsb : 8 ≤ lsb.toNat) :
    valueOf (exec (.ext2 boff lsb width) s) = valueOf (exec (.ext boff (lsb - 8) width) s) := by
  have hsub : (lsb - 8).toNat = lsb.toNat - 8 := BitVec.toNat_sub_of_le (x := lsb) (y := 8) hlsb
  rw [valueOf_ext2 lsb width h, valueOf_ext _ width (Nat.lt_of_succ_lt h), hsub,
    pair_div_of_ge (byte_lt s _) hlsb]

/-- EXT2 below bit 8 is EXT of the low byte (R93). -/
theorem valueOf_ext2_low (h : boff.toNat + 1 < s.len) (hrange : lsb.toNat + width.toNat ≤ 8) :
    valueOf (exec (.ext2 boff lsb width) s) = valueOf (exec (.ext (boff + 1) lsb width) s) := by
  have hnext := nextOffset_toNat h
  rw [valueOf_ext2 lsb width h, valueOf_ext lsb width (hnext ▸ h), hnext, pair_range_of_le (byte_lt s _) hrange]

end

/-- Settles O10: the bit is read behind the bounds check (`readBit_eq`), and by O4 a word of op 0 with one of bits 8:3
set is illegal. -/
theorem bitReadsOneBit : Obligations.BitReadsOneBit := by
  intro s
  refine ⟨fun boff bit => ?_, fun hop => ⟨fun hz => ?_, fun hz => ?_⟩⟩
  · obtain ⟨hin, hout⟩ := exec_of_checkedRead (i := .bit boff bit) (readBit_eq s boff bit)
    exact ⟨hin, fun h => hout (Nat.not_lt.2 h), encode_bit_toNat_or boff bit⟩
  · exact (decode_op0 hop).trans (if_pos hz)
  · exact (illegalWordsAndOnlyTheseAnswerIllegalCommand s).1 (.inr (.inl ⟨hop, hz⟩))

/-- Settles O11: the mask is applied behind the bounds check (`readMasked_eq`), and by O4 a word of op 1 with bit 8 set
is illegal. -/
theorem mskKeepsTheSelectedBitsInPlace : Obligations.MskKeepsTheSelectedBitsInPlace := by
  intro s
  refine ⟨fun boff mask => ?_, fun hop => ⟨fun hz => ?_, fun hz => ?_⟩⟩
  · obtain ⟨hin, hout⟩ := exec_of_checkedRead (i := .msk boff mask) (readMasked_eq s boff mask)
    exact ⟨hin, fun h => hout (Nat.not_lt.2 h), encode_msk_toNat_or boff mask⟩
  · exact (decode_op1 hop).trans (if_pos hz)
  · exact (illegalWordsAndOnlyTheseAnswerIllegalCommand s).1 (.inr (.inr (.inl ⟨hop, hz⟩)))

/-- Settles O12: the range is taken behind the bounds check (`readRange_eq`), and format X has no must-be-zero bit. -/
theorem extShiftsABitRangeOfOneByteDown : Obligations.ExtShiftsABitRangeOfOneByteDown := by
  intro s
  refine ⟨fun boff lsb width => ?_, fun hop => decode_op2 hop⟩
  obtain ⟨hin, hout⟩ := exec_of_checkedRead (i := .ext boff lsb width) (readRange_eq s boff lsb width)
  exact ⟨hin, fun h => hout (Nat.not_lt.2 h), encode_ext_toNat_or boff lsb width, valueOf_ext_eq_msk⟩

/-- Settles O13: the range is taken behind the bounds check of both bytes (`readRangeOfPair_eq`), which fails for the
last offset at every length, and format X has no must-be-zero bit. -/
theorem ext2ShiftsABitRangeOfTheBigEndianPairDown : Obligations.Ext2ShiftsABitRangeOfTheBigEndianPairDown := by
  intro s
  refine ⟨fun boff lsb width => ?_, fun hop => decode_op3 hop⟩
  obtain ⟨hin, hout⟩ := exec_of_checkedRead (i := .ext2 boff lsb width) (readRangeOfPair_eq s boff lsb width)
  have hlast (h : boff = 15) : s.len ≤ boff.toNat + 1 := h ▸ len_le s
  exact ⟨hin, fun h => hout (Nat.not_lt.2 h), fun h => hout (Nat.not_lt.2 (hlast h)),
    encode_ext2_toNat_or boff lsb width, valueOf_ext2_full, valueOf_ext2_high, valueOf_ext2_low⟩

end Sys2Proof.Machine

/-! PROOFS. The statements of 41_enum_codecs.md: what the two codecs answer by byte 0, the words that spell them, and on
how many values of byte 0 they succeed. -/

namespace Sys2Proof.Machine

section
variable {s : State}

/-- A word of a codec's operation code with a must-be-zero bit set is illegal (R66). -/
theorem step_of_codecMustBeZero (hop : opField s.cmd = 4 ∨ opField s.cmd = 5) (hz : zeroBitsZ s.cmd ≠ 0) :
    step s = .next { s with rsp := (Result.error .illegalCommand).pack } :=
  (illegalWordsAndOnlyTheseAnswerIllegalCommand s).1 (.inr (.inr (.inr (.inl ⟨hop, hz⟩))))

/-- An empty telegram has no value to read (R41). -/
theorem pos_of_valueOf {i : Instr} {v : Int} (hi : ∀ w, i ≠ .illegal w) (hv : valueOf (exec i s) = some v) :
    0 < s.len := by
  refine Nat.pos_of_ne_zero fun hempty => ?_
  rw [valueOf, resultOf_exec, outcomeOf_of_empty hi hempty, delivered_error] at hv
  cases hv

/-! MTDEC (R100): a type code below 4 is its own ordinal. -/

theorem exec_mtdec_of_typeCode {c : Nat} (hpos : 0 < s.len) (hcode : (s.byte 0).toNat / 32 = c) (hc : c < 4) :
    exec .mtdec s = .next { s with rsp := (Result.value .enumMsgType c).pack } := by
  have hlow : (s.byte 0).toNat < 128 := by omega
  rw [exec_of_outcome (i := .mtdec) (readMessageType_of_pos hpos), if_pos hlow, hcode, delivered_ok]

theorem exec_mtdec_of_invalid (h : invalidMessageType s) :
    exec .mtdec s = .next { s with rsp := (Result.error .invalidEnumCode).pack } := by
  obtain ⟨hpos, hhigh⟩ := h
  rw [exec_of_outcome (i := .mtdec) (readMessageType_of_pos hpos), if_neg (by omega), delivered_error]

theorem valueOf_mtdec (hpos : 0 < s.len) : valueOf (exec .mtdec s) =
    if (s.byte 0).toNat < 0x80 then some (((s.byte 0).toNat / 32 : Nat) : Int) else none := by
  rw [valueOf, resultOf_exec, outcomeOf, readMessageType_of_pos hpos]
  by_cases hlow : (s.byte 0).toNat < 0x80
  · rw [if_pos hlow, if_pos hlow, delivered_ok]
  · rw [if_neg hlow, if_neg hlow, delivered_error]

/-- The type code as the generic read of bits 7:5 gives it. -/
theorem valueOf_ext_typeCode (hpos : 0 < s.len) :
    valueOf (exec (.ext 0 5 3) s) = some (((s.byte 0).toNat / 32 : Nat) : Int) := by
  have hb := byte_lt s 0
  have hthree : (s.byte 0).toNat / 2 ^ (5 : BitVec 4).toNat % 2 ^ (3 : BitVec 5).toNat = (s.byte 0).toNat / 32 := by
    change (s.byte 0).toNat / 2 ^ 5 % 2 ^ 3 = _
    omega
  rw [← hthree]
  exact valueOf_ext 5 3 hpos

/-! OMDEC (R101): the mode table on the low nibble. -/

theorem exec_omdec_of_code {c : Nat} {m : OperationMode} (hpos : 0 < s.len) (hm : operationModeOfCode c = some m)
    (hcode : (s.byte 0).toNat % 16 = c) :
    exec .omdec s = .next { s with rsp := (Result.value .enumOpMode m.ordinal).pack } := by
  rw [exec_of_outcome (i := .omdec) (readOperationMode_of_pos hpos), hcode, hm, delivered_ok]

/-- The seven nibbles of R161 are outside the mode table. -/
theorem operationModeOfCode_of_invalid (h : invalidModeNibble s) :
    operationModeOfCode ((s.byte 0).toNat % 16) = none := by
  rw [← Option.not_isSome_iff_eq_none, operationModeOfCode_isSome]
  simp only [invalidModeNibble, List.mem_cons, List.not_mem_nil, or_false] at h ⊢
  omega

theorem exec_omdec_of_invalid (hpos : 0 < s.len) (h : invalidModeNibble s) :
    exec .omdec s = .next { s with rsp := (Result.error .invalidEnumCode).pack } := by
  rw [exec_of_outcome (i := .omdec) (readOperationMode_of_pos hpos), operationModeOfCode_of_invalid h, delivered_error]

/-- The wire code as the generic read under the mask of bits 3:0 gives it. -/
theorem valueOf_msk_modeCode (hpos : 0 < s.len) :
    valueOf (exec (.msk 0 0x0F) s) = some (((s.byte 0).toNat % 16 : Nat) : Int) := by
  rw [← low4_eq]
  exact valueOf_msk 0x0F hpos

/-- The two code ranges of R76 and their ordinals. -/
theorem operationModeOfCode_map_ordinal (c : Nat) :
    (operationModeOfCode c).map (fun m => (m.ordinal : Int)) =
      if c ≤ 4 then some (c : Int) else if 11 ≤ c ∧ c ≤ 14 then some ((c : Int) - 6) else none := by
  have hdomain := operationModeOfCode_isSome c
  simp only [List.mem_cons, List.not_mem_nil, or_false] at hdomain
  cases h : operationModeOfCode c with
  | none =>
    have hout := mt hdomain.2 (by rw [h]; nofun)
    rw [if_neg (by omega), if_neg (by omega), Option.map_none]
  | some m =>
    rw [Option.map_some, operationModeOfCode_ordinal h]
    by_cases hlow : c ≤ 4
    · rw [if_pos hlow, if_pos hlow]
    · have hcode := hdomain.1 (by rw [h]; rfl)
      rw [if_neg hlow, if_neg hlow, if_pos (by omega)]

theorem valueOf_omdec (hpos : 0 < s.len) : valueOf (exec .omdec s) =
    (operationModeOfCode ((s.byte 0).toNat % 16)).map fun m => (m.ordinal : Int) := by
  rw [valueOf, resultOf_exec, outcomeOf, readOperationMode_of_pos hpos]
  cases operationModeOfCode ((s.byte 0).toNat % 16) <;> rfl

end

/-! One-byte telegrams, on which the successes of R102 are counted. -/

/-- The telegram whose only byte is `b`. -/
def oneByteTelegram (b : Nat) : State :=
  { tg := Memory.drive [] 0 (BitVec.ofNat 8 b), tgLen := 1#5, cmd := 0#16, rsp := 0#32 }

theorem oneByteTelegram_pos (b : Nat) : 0 < (oneByteTelegram b).len := Nat.one_pos

theorem oneByteTelegram_byte {b : Nat} (hb : b < 256) : ((oneByteTelegram b).byte 0).toNat = b := by
  have hread : (oneByteTelegram b).byte 0 = BitVec.ofNat 8 b :=
    (Memory.read_drive [] (BitVec.ofNat 8 b) rfl (Nat.zero_lt_succ 15) 0).trans (if_pos rfl)
  rw [hread, BitVec.toNat_ofNat, Nat.mod_eq_of_lt hb]

theorem valueOf_mtdec_isSome {b : Nat} (hb : b < 256) :
    (valueOf (exec .mtdec (oneByteTelegram b))).isSome = true ↔ b < 128 := by
  rw [valueOf_mtdec (oneByteTelegram_pos b), oneByteTelegram_byte hb, Option.isSome_ite]

/-- The lower half of the byte values has a message type. -/
theorem countP_mtdec :
    (List.range 256).countP (fun b => (valueOf (exec .mtdec (oneByteTelegram b))).isSome) = 128 := by
  have hlower : ∀ b ∈ List.range 128, (valueOf (exec .mtdec (oneByteTelegram b))).isSome = true := fun b hb => by
    have hlt := List.mem_range.1 hb
    exact (valueOf_mtdec_isSome (by omega)).2 hlt
  have hupper : ∀ b ∈ (List.range 128).map (128 + ·),
      ¬ (valueOf (exec .mtdec (oneByteTelegram b))).isSome = true := fun b hb => by
    obtain ⟨k, hk, rfl⟩ := List.mem_map.1 hb
    have hlt := List.mem_range.1 hk
    rw [valueOf_mtdec_isSome (by omega)]
    omega
  rw [List.range_add (n := 128) (m := 128), List.countP_append, List.countP_eq_length.2 hlower,
    List.countP_eq_zero.2 hupper, List.length_range]

/-- A property of nibbles holds as often in each row of 16 numbers. -/
theorem countP_nibble (p : Nat → Bool) (rows : Nat) :
    (List.range (16 * rows)).countP (fun b => p (b % 16)) = rows * (List.range 16).countP p := by
  induction rows with
  | zero => rw [Nat.zero_mul]; rfl
  | succ k ih =>
    have hrow : ((List.range 16).map (16 * k + ·)).countP (fun b => p (b % 16)) = (List.range 16).countP p := by
      rw [List.countP_map]
      refine List.countP_congr fun b hb => ?_
      rw [Function.comp_apply, Nat.mul_add_mod, Nat.mod_eq_of_lt (List.mem_range.1 hb)]
    rw [Nat.mul_succ, List.range_add, List.countP_append, ih, hrow, Nat.succ_mul]

/-- Nine of the sixteen low nibbles have a mode, under each of the sixteen high nibbles. -/
theorem countP_omdec :
    (List.range 256).countP (fun b => (valueOf (exec .omdec (oneByteTelegram b))).isSome) = 144 := by
  have hnibble : ∀ b ∈ List.range 256, (valueOf (exec .omdec (oneByteTelegram b))).isSome = true ↔
      (operationModeOfCode (b % 16)).isSome = true := fun b hb => by
    rw [valueOf_omdec (oneByteTelegram_pos b), oneByteTelegram_byte (List.mem_range.1 hb), Option.isSome_map]
  have hnine : (List.range 16).countP (fun c => (operationModeOfCode c).isSome) = 9 := by decide
  rw [List.countP_congr hnibble, countP_nibble (fun c => (operationModeOfCode c).isSome) 16, hnine]

/-- Settles O14: a range of byte 0 is a type code, the same that EXT 0, 5, 3 reads, and by O4 another word of op 4 is
illegal. -/
theorem mtdecClassifiesByteZero : Obligations.MtdecClassifiesByteZero := by
  refine ⟨rfl, fun s => ⟨emptyTelegramFailsEveryReadingOperation .mtdec s (fun _ => nofun),
    fun hpos => ⟨fun hhi => ?_, fun hlo hhi => ?_, fun hlo hhi => ?_, fun hlo hhi => ?_,
      fun hlo => exec_mtdec_of_invalid ⟨hpos, hlo⟩⟩,
    fun hop => ⟨fun hw => ?_, fun hne => ?_⟩, fun v hv => ?_, fun v hv hge => ?_⟩⟩
  · exact exec_mtdec_of_typeCode (c := 0) hpos (by omega) (by decide)
  · exact exec_mtdec_of_typeCode (c := 1) hpos (by omega) (by decide)
  · exact exec_mtdec_of_typeCode (c := 2) hpos (by omega) (by decide)
  · exact exec_mtdec_of_typeCode (c := 3) hpos (by omega) (by decide)
  · rw [hw]; exact decodeInvertsEncode .mtdec rfl
  · exact step_of_codecMustBeZero (.inl hop) fun hz => hne (encode_mtdec_fields hop hz).symm
  · have hpos := pos_of_valueOf (i := .mtdec) (fun _ => nofun) hv
    rw [valueOf_mtdec hpos, Option.ite_none_right_eq_some] at hv
    rw [valueOf_ext_typeCode hpos, hv.2]
  · have hpos := pos_of_valueOf (i := .ext 0 5 3) (fun _ => nofun) hv
    rw [valueOf_ext_typeCode hpos, Option.some_inj] at hv
    exact exec_mtdec_of_invalid ⟨hpos, by omega⟩

/-- Settles O15: each nibble is looked up in the mode table, and by O4 another word of op 5 is illegal. -/
theorem omdecMapsTheLowNibble : Obligations.OmdecMapsTheLowNibble := by
  refine ⟨rfl, fun s => ⟨emptyTelegramFailsEveryReadingOperation .omdec s (fun _ => nofun), fun hpos => ?_,
    fun hop => ⟨fun hw => ?_, fun hne => ?_⟩⟩⟩
  · exact ⟨exec_omdec_of_code (m := .off) hpos rfl, exec_omdec_of_code (m := .level1) hpos rfl,
      exec_omdec_of_code (m := .level2) hpos rfl, exec_omdec_of_code (m := .level3) hpos rfl,
      exec_omdec_of_code (m := .level4) hpos rfl, exec_omdec_of_code (m := .automatic) hpos rfl,
      exec_omdec_of_code (m := .automaticOnDemand) hpos rfl, exec_omdec_of_code (m := .supplyAirOnly) hpos rfl,
      exec_omdec_of_code (m := .exhaustAirOnly) hpos rfl, exec_omdec_of_invalid hpos, valueOf_msk_modeCode hpos⟩
  · rw [hw]; exact decodeInvertsEncode .omdec rfl
  · exact step_of_codecMustBeZero (.inr hop) fun hz => hne (encode_omdec_fields hop hz).symm

/-- Settles O16: the values by the tables of the two codecs, counted over the one-byte telegrams. -/
theorem codecsSucceedOnTheirTruthTables : Obligations.CodecsSucceedOnTheirTruthTables := by
  refine ⟨fun s hpos => ⟨valueOf_mtdec hpos, ?_, fun hhigh => exec_mtdec_of_invalid ⟨hpos, Nat.not_lt.1 hhigh⟩,
    exec_omdec_of_invalid hpos⟩, countP_mtdec, countP_omdec⟩
  exact (valueOf_omdec hpos).trans (operationModeOfCode_map_ordinal _)

end Sys2Proof.Machine

/-! PROOFS. The statements of 42_field_decoders.md: what a channel answers on a BASIC_STATUS telegram, and the generic
read that gives the same number. -/

namespace Sys2Proof.Machine

/-- A consumer reads a value exactly from a result with the tag VALUE. -/
theorem valueOf_eq_some_iff {o : Host.Outcome State Fault Refusal} {v : Int} :
    valueOf o = some v ↔ ∃ u, resultOf o = some (.value u v) := by
  unfold valueOf
  split
  next u w hresult => simp [hresult]
  next hno => exact ⟨nofun, fun ⟨u, hresult⟩ => absurd hresult (hno u v)⟩

section
variable {s : State} {i : Instr}

/-- Under BASIC_STATUS a channel answers what its decoder yields. -/
theorem exec_of_basicDispatch {f : Except ErrKind Result} (hs : basicStatus s) (hi : outcomeOf i s = dispatch s f) :
    exec i s = .next { s with rsp := (delivered f).pack } :=
  exec_of_outcome (hi.trans (dispatch_basic hs f))

/-! A channel that reads is a value behind a bounds check, once the dispatch has found BASIC_STATUS. -/

section
variable {u : PhysUnit} {a k : Nat}

theorem outcomeOf_flagChannel (hs : basicStatus s) (hi : outcomeOf i s = dispatch s (flag s a k u)) :
    outcomeOf i s = if a < s.len then .ok (.value u (bitValue (s.byte a) k)) else .error .bufferBounds := by
  rw [hi, dispatch_basic hs, flag_eq]

theorem outcomeOf_airQualityChannel (hs : basicStatus s) (hi : outcomeOf i s = dispatch s (airQuality s a)) :
    outcomeOf i s = if a < s.len then .ok (.value .percent (((s.byte a).toNat % 128 : Nat) : Int))
      else .error .bufferBounds := by
  rw [hi, dispatch_basic hs, airQuality_eq]

/-- Every flag channel under BASIC_STATUS (R110 to R123): its bit, or BufferBounds. -/
theorem exec_flagChannel (hs : basicStatus s) (hi : outcomeOf i s = dispatch s (flag s a k u)) :
    (a < s.len → exec i s = .next { s with rsp := (Result.value u (bitValue (s.byte a) k)).pack }) ∧
      (s.len ≤ a → exec i s = .next { s with rsp := (Result.error .bufferBounds).pack }) := by
  obtain ⟨hin, hout⟩ := exec_of_checkedRead (outcomeOf_flagChannel hs hi)
  exact ⟨hin, fun h => hout (Nat.not_lt.2 h)⟩

/-- A flag channel reads its bit as BIT does, in another unit (R135). -/
theorem flagChannel_agrees_with_bit {boff : BitVec 4} {bit : BitVec 3} (hs : basicStatus s)
    (hi : outcomeOf i s = dispatch s (flag s boff.toNat bit.toNat u)) :
    (resultOf (exec (.bit boff bit) s) = some (.error .bufferBounds) ∧
        resultOf (exec i s) = some (.error .bufferBounds) ∧ s.len ≤ boff.toNat) ∨
      ∃ v, resultOf (exec (.bit boff bit) s) = some (.value .raw v) ∧
        resultOf (exec i s) = some (.value u v) ∧ boff.toNat < s.len ∧
        v = (s.byte boff.toNat).toNat / 2 ^ bit.toNat % 2 := by
  rw [resultOf_exec, resultOf_exec, outcomeOf_flagChannel hs hi, outcomeOf, readBit_eq]
  rcases Nat.lt_or_ge boff.toNat s.len with h | h
  · refine .inr ⟨bitValue (s.byte boff.toNat) bit.toNat, ?_, ?_, h, ?_⟩
    · rw [if_pos h, delivered_ok]
    · rw [if_pos h, delivered_ok]
    · rw [bitValue_eq]; norm_cast
  · rw [if_neg (Nat.not_lt.2 h), if_neg (Nat.not_lt.2 h), delivered_error]
    exact .inl ⟨rfl, rfl, h⟩

end

theorem outcomeOf_resOutdoorTemp (hs : basicStatus s) : outcomeOf .resOutdoorTemp s =
    if 5 < s.len then .ok (.value .celsius (((s.byte 5).toNat / 2 : Nat) - 64)) else .error .bufferBounds := by
  rw [outcomeOf, dispatch_basic hs, outdoorTemp_eq]

theorem outcomeOf_resSupplyTemp (hs : basicStatus s) : outcomeOf .resSupplyTemp s =
    if 6 < s.len
      then .ok (.value .celsius (((s.byte 5).toNat % 128 * 64 + (s.byte 6).toNat / 4 : Nat) - 64))
      else .error .bufferBounds := by
  rw [outcomeOf, dispatch_basic hs, supplyTemp_eq]

/-- OPERATION_MODE has the body of OMDEC (R134). -/
theorem exec_resOperationMode (hs : basicStatus s) : exec .resOperationMode s = exec .omdec s :=
  (exec_of_basicDispatch hs rfl).trans (exec_eq .omdec s).symm

/-! The generic reads of the numbers that the channels are made of. -/

/-- The mask of bits 6:0. -/
theorem valueOf_msk_low7 {boff : BitVec 4} (h : boff.toNat < s.len) :
    valueOf (exec (.msk boff 0x7F) s) = some (((s.byte boff.toNat).toNat % 128 : Nat) : Int) := by
  rw [← low7_eq]
  exact valueOf_msk 0x7F h

/-- The range of bits 6:0. -/
theorem valueOf_ext_low7 {boff : BitVec 4} (h : boff.toNat < s.len) :
    valueOf (exec (.ext boff 0 7) s) = some (((s.byte boff.toNat).toNat % 128 : Nat) : Int) := by
  have hlow : (s.byte boff.toNat).toNat / 2 ^ (0 : BitVec 4).toNat % 2 ^ (7 : BitVec 5).toNat =
      (s.byte boff.toNat).toNat % 128 := by
    change _ / 2 ^ 0 % 2 ^ 7 = _
    omega
  rw [← hlow]
  exact valueOf_ext 0 7 h

/-- The range of bits 7:1. -/
theorem valueOf_ext_high7 {boff : BitVec 4} (h : boff.toNat < s.len) :
    valueOf (exec (.ext boff 1 7) s) = some (((s.byte boff.toNat).toNat / 2 : Nat) : Int) := by
  have hb := byte_lt s boff.toNat
  have hhigh : (s.byte boff.toNat).toNat / 2 ^ (1 : BitVec 4).toNat % 2 ^ (7 : BitVec 5).toNat =
      (s.byte boff.toNat).toNat / 2 := by
    change _ / 2 ^ 1 % 2 ^ 7 = _
    omega
  rw [← hhigh]
  exact valueOf_ext 1 7 h

/-- The range of bits 14:2 of a pair: 7 bits of the high byte over 6 of the low byte. -/
theorem valueOf_ext2_middle13 {boff : BitVec 4} (h : boff.toNat + 1 < s.len) :
    valueOf (exec (.ext2 boff 2 13) s) = some (((s.byte boff.toNat).toNat % 128 * 64 +
      (s.byte (boff.toNat + 1)).toNat / 4 : Nat) : Int) := by
  have hlow := byte_lt s (boff.toNat + 1)
  have hmiddle : ((s.byte boff.toNat).toNat * 256 + (s.byte (boff.toNat + 1)).toNat) /
      2 ^ (2 : BitVec 4).toNat % 2 ^ (13 : BitVec 5).toNat =
        (s.byte boff.toNat).toNat % 128 * 64 + (s.byte (boff.toNat + 1)).toNat / 4 := by
    change _ / 2 ^ 2 % 2 ^ 13 = _
    omega
  rw [← hmiddle]
  exact valueOf_ext2 2 13 h

/-- A value that a consumer reads is within the range of its instruction. -/
theorem valueOf_withinRange {u : PhysUnit} {lo hi v : Int} (hrange : valueRange i = some (u, lo, hi))
    (hv : valueOf (exec i s) = some v) : lo ≤ v ∧ v ≤ hi := by
  obtain ⟨u', hresult⟩ := valueOf_eq_some_iff.1 hv
  obtain ⟨lo', hi', hrange', hlo, hhi⟩ := value_withinRange hresult
  rw [hrange] at hrange'
  cases hrange'
  exact ⟨hlo, hhi⟩

end

/-! Byte 0 of a telegram: a channel sees its message type, and only OPERATION_MODE sees more of it. -/

section
variable {s t : State} (hlen : s.len = t.len)
include hlen

theorem dispatch_congr_of_typeCode (htype : (s.byte 0).toNat / 32 = (t.byte 0).toNat / 32)
    {f g : Except ErrKind Result} (hfg : f = g) : dispatch s f = dispatch t g := by
  subst hfg
  exact memRead_one_bind_congr hlen fun _ => by rw [decodeMessageType_congr htype]

variable (hbyte : ∀ a, 0 < a → a < s.len → s.byte a = t.byte a)
include hbyte

/-- A read that leaves byte 0 out. -/
theorem memRead_congr_of_pos {a : Nat} (ha : 0 < a) (n : Nat) : memRead s a n = memRead t a n := by
  unfold memRead
  rw [← hlen]
  split
  next hin => rw [bigEndian_congr fun i h1 h2 => hbyte i (by omega) (by omega)]
  next => rfl

theorem flag_congr_of_pos {a : Nat} (ha : 0 < a) (k : Nat) (u : PhysUnit) : flag s a k u = flag t a k u := by
  rw [flag, flag, memRead_congr_of_pos hlen hbyte ha]

theorem airQuality_congr_of_pos {a : Nat} (ha : 0 < a) : airQuality s a = airQuality t a := by
  rw [airQuality, airQuality, memRead_congr_of_pos hlen hbyte ha]

theorem outdoorTemp_congr_of_pos : outdoorTemp s = outdoorTemp t := by
  rw [outdoorTemp, outdoorTemp, memRead_congr_of_pos hlen hbyte (by decide)]

theorem supplyTemp_congr_of_pos : supplyTemp s = supplyTemp t := by
  rw [supplyTemp_eq, supplyTemp_eq, ← hlen]
  split
  next h6 => rw [hbyte 5 (by decide) (by omega), hbyte 6 (by decide) h6]
  next => rfl

/-- Of byte 0 a channel other than OPERATION_MODE sees bits 7:5 alone. -/
theorem outcomeOf_res_congr_of_typeCode (htype : (s.byte 0).toNat / 32 = (t.byte 0).toNat / 32) {i : Instr}
    (hres : isRes i) (hmode : i ≠ .resOperationMode) : outcomeOf i s = outcomeOf i t := by
  cases i
  case bit | msk | ext | ext2 | mtdec | omdec | illegal => exact absurd rfl hres
  case resOperationMode => exact absurd rfl hmode
  all_goals apply dispatch_congr_of_typeCode hlen htype
  case resAirQuality1 | resAirQuality2 => exact airQuality_congr_of_pos hlen hbyte (by decide)
  case resOutdoorTemp => exact outdoorTemp_congr_of_pos hlen hbyte
  case resSupplyTemp => exact supplyTemp_congr_of_pos hlen hbyte
  case resIndoorTemp | resExhaustTemp | resSupplyFlow | resExhaustFlow | resSupplyFanSpeed
      | resExhaustFanSpeed | resUnknown => rfl
  all_goals exact flag_congr_of_pos hlen hbyte (by decide) _ _

end

/-- Settles O18: each row is its flag decoder behind the dispatch (`exec_flagChannel`). -/
theorem flagChannelsOfByteOne : Obligations.FlagChannelsOfByteOne := by
  intro row hrow
  fin_cases hrow
  all_goals exact ⟨rfl, fun s hs => exec_flagChannel hs rfl⟩

/-- Settles O19: each row is its flag decoder behind the dispatch (`exec_flagChannel`). -/
theorem flagChannelsOfByteTwo : Obligations.FlagChannelsOfByteTwo := by
  intro row hrow
  fin_cases hrow
  all_goals exact ⟨rfl, fun s hs => exec_flagChannel hs rfl⟩

/-- Settles O20: each row is its flag decoder behind the dispatch (`exec_flagChannel`). -/
theorem flagChannelsOfBytesThreeAndFour : Obligations.FlagChannelsOfBytesThreeAndFour := by
  intro row hrow
  fin_cases hrow
  all_goals exact ⟨rfl, fun s hs => exec_flagChannel hs rfl⟩

/-- Settles O21: a flag channel and BIT take one bit behind one bounds check. -/
theorem flagChannelsAgreeWithBit : Obligations.FlagChannelsAgreeWithBit := by
  intro row hrow
  fin_cases hrow
  all_goals exact fun s hs => flagChannel_agrees_with_bit hs rfl

/-- Settles O22: the low seven bits behind the bounds check, which MSK and EXT read as well. -/
theorem airQualityIsTheRawSevenBitNumber : Obligations.AirQualityIsTheRawSevenBitNumber := by
  refine ⟨rfl, rfl, fun s hs => ?_⟩
  have hone := outcomeOf_airQualityChannel (i := .resAirQuality1) (a := 3) hs rfl
  have htwo := outcomeOf_airQualityChannel (i := .resAirQuality2) (a := 4) hs rfl
  obtain ⟨hin1, hout1⟩ := exec_of_checkedRead hone
  obtain ⟨hin2, hout2⟩ := exec_of_checkedRead htwo
  refine ⟨fun h => ⟨hin1 h, ?_, ?_⟩, fun h => hout1 (Nat.not_lt.2 h), fun h => ⟨hin2 h, ?_⟩,
    fun h => hout2 (Nat.not_lt.2 h)⟩
  · exact (valueOf_of_checkedRead h hone).trans (valueOf_msk_low7 (boff := 3) h).symm
  · exact (valueOf_of_checkedRead h hone).trans (valueOf_ext_low7 (boff := 3) h).symm
  · exact (valueOf_of_checkedRead h htwo).trans (valueOf_msk_low7 (boff := 4) h).symm

/-- Settles O23: half of byte 5 behind the bounds check, which EXT reads before the offset is taken off. -/
theorem outdoorTemperatureIsSevenBitsLessSixtyFour : Obligations.OutdoorTemperatureIsSevenBitsLessSixtyFour := by
  refine ⟨rfl, fun s hs => ?_⟩
  have hout := outcomeOf_resOutdoorTemp hs
  obtain ⟨hin, hshort⟩ := exec_of_checkedRead hout
  refine ⟨fun h => ⟨hin h, ?_, fun v => valueOf_withinRange rfl⟩, fun h => hshort (Nat.not_lt.2 h)⟩
  rw [valueOf_of_checkedRead h hout, valueOf_ext_high7 (boff := 5) h]
  rfl

/-- Settles O24: the thirteen bits behind the bounds check of both bytes, which EXT2 reads before the offset is taken
off. -/
theorem supplyTemperatureIsThirteenBitsLessSixtyFour :
    Obligations.SupplyTemperatureIsThirteenBitsLessSixtyFour := by
  refine ⟨rfl, fun s hs => ?_⟩
  have hout := outcomeOf_resSupplyTemp hs
  obtain ⟨hin, hshort⟩ := exec_of_checkedRead hout
  refine ⟨fun h => ⟨hin h, ?_, fun v => valueOf_withinRange rfl⟩, fun h => hshort (Nat.not_lt.2 h)⟩
  rw [valueOf_of_checkedRead h hout, valueOf_ext2_middle13 (boff := 5) h]
  rfl

/-- Settles O25: the selected decoder reads no byte. -/
theorem unsupportedChannelsNeverGiveAValue : Obligations.UnsupportedChannelsNeverGiveAValue := by
  intro row hrow
  fin_cases hrow
  all_goals exact ⟨rfl, fun s hs => exec_of_basicDispatch (f := unsupported) hs rfl⟩

/-- Settles O26: under BASIC_STATUS it is OMDEC (O15), elsewhere the dispatch answers, and every other channel sees of
byte 0 its message type alone (`outcomeOf_res_congr_of_typeCode`). -/
theorem operationModeChannelIsOmdecUnderBasicStatus : Obligations.OperationModeChannelIsOmdecUnderBasicStatus := by
  refine ⟨rfl, fun s hs => ?_, fun s => ⟨fun h => ?_, fun h => ?_, fun h => ?_⟩,
    fun i s t s' t' hres hmode hlen hnibble hbyte hs ht => ?_⟩
  · obtain ⟨-, homdec⟩ := omdecMapsTheLowNibble
    obtain ⟨-, hmodes, -⟩ := homdec s
    obtain ⟨h0, h1, h2, h3, h4, h11, h12, h13, h14, hinvalid, -⟩ := hmodes hs.1
    rw [exec_resOperationMode hs]
    exact ⟨h0, h1, h2, h3, h4, h11, h12, h13, h14, hinvalid, rfl⟩
  · exact exec_of_outcome (i := .resOperationMode) (dispatch_empty h _)
  · exact exec_of_outcome (i := .resOperationMode) (dispatch_other h _)
  · exact exec_of_outcome (i := .resOperationMode) (dispatch_invalid h _)
  · have htype : (s.byte 0).toNat / 32 = (t.byte 0).toNat / 32 := by omega
    exact rsp_eq_of_outcomeOf_eq
      (outcomeOf_res_congr_of_typeCode hlen (fun a ha _ => hbyte a ha) htype hres hmode) hs ht

end Sys2Proof.Machine

/-! PROOFS. The statements of 43_channel_dispatcher.md: what RES answers by the message type and the channel code, and
the least length of a telegram that each command reads within its bounds. -/

namespace Sys2Proof.Machine

section
variable {s : State} {i : Instr}

/-- Whatever its channel, a RES row is the dispatch in front of some decoder (R140). -/
theorem outcomeOf_res (hi : isRes i) (s : State) : ∃ f, outcomeOf i s = dispatch s f := by
  cases i
  case bit | msk | ext | ext2 | mtdec | omdec | illegal => exact absurd rfl hi
  all_goals exact ⟨_, rfl⟩

/-- The word of a RES row as the spec writes it (R140). -/
theorem formatC_toNat_or (chan : BitVec 8) : (formatC chan).toNat = 0xC000 ||| chan.toNat := by
  simp only [formatC, BitVec.toNat_append, BitVec.toNat_ofNat, Nat.zero_mod, Nat.or_zero]
  rfl

/-- No output of the parallel design belongs to a code above 24. -/
theorem decoderOutputs_get_of_gt {chan : Nat} (h : 24 < chan) :
    (decoderOutputs s.len (Memory.toPort s.tg))[chan]?.getD .undefined = .undefined := by
  rw [decoderOutputs_get, selectedDecoder_of_ge s h, unknownChannel, delivered_ok]

/-- The two multiplexers as the five steps of R140. -/
theorem wireResolve_eq_steps (chan : Nat) : wireResolve s.len (Memory.toPort s.tg) chan =
    if s.len = 0 then .error .bufferBounds
    else if 4 ≤ (s.byte 0).toNat / 32 then .error .invalidEnumCode
    else if (s.byte 0).toNat / 32 ≠ 2 then .undefined
    else if 24 < chan then .undefined
    else (decoderOutputs s.len (Memory.toPort s.tg))[chan]?.getD .undefined := by
  have hchan : (if 24 < chan then Result.undefined
      else (decoderOutputs s.len (Memory.toPort s.tg))[chan]?.getD .undefined) =
        (decoderOutputs s.len (Memory.toPort s.tg))[chan]?.getD .undefined :=
    ite_eq_right_iff.2 fun h => (decoderOutputs_get_of_gt h).symm
  rw [hchan, wireResolve, wireRead_eq]
  rcases Nat.eq_zero_or_pos s.len with h | h
  · rw [if_pos h, if_neg (by omega)]
  · rw [if_pos h, if_neg (Nat.ne_of_gt h)]

end

/-- Settles O27: the word is format C of the code, which decodes to RES.UNKNOWN (`decodeChannel_of_ge`), and behind the
dispatch of RES.UNKNOWN stands no decoder. -/
theorem unknownChannelsAnswerUndefined : Obligations.UnknownChannelsAnswerUndefined := by
  intro chan hchan
  refine ⟨?_, fun s hs => exec_of_basicDispatch (f := unknownChannel) hs rfl⟩
  rw [← formatC_toNat, BitVec.ofNat_toNat, BitVec.setWidth_eq, decode_formatC, decodeChannel_of_ge chan hchan]

/-- Settles O28: the dispatch answers before the decoder behind it. -/
theorem otherMessageTypesAnswerUndefinedToEveryChannel :
    Obligations.OtherMessageTypesAnswerUndefinedToEveryChannel := by
  intro i s hi hs
  obtain ⟨f, hf⟩ := outcomeOf_res hi s
  exact exec_of_outcome (hf.trans (dispatch_other hs f))

/-- Settles O29: the dispatch fails before the decoder behind it. -/
theorem invalidMessageTypeFailsEveryChannel : Obligations.InvalidMessageTypeFailsEveryChannel := by
  intro i s hi hs
  obtain ⟨f, hf⟩ := outcomeOf_res hi s
  exact exec_of_outcome (hf.trans (dispatch_invalid hs f))

/-- Settles O30: a RES row is the row of its channel code, which the two multiplexers of R147 compute
(`wireResolve_eq`), and by O4 a word of op 6 with one of bits 12:8 set is illegal. -/
theorem resFollowsItsFiveSteps : Obligations.ResFollowsItsFiveSteps := by
  refine ⟨fun i c s hi hc => ?_, fun s hop hz => ?_⟩
  · obtain ⟨-, -, hformat⟩ := decodeChannel_spec c
    rw [eq_decodeChannel hi hc, hformat, exec_eq, outcomeOf_decodeChannel, ← wireResolve_eq, wireResolve_eq_steps]
    exact ⟨formatC_toNat_or c, rfl⟩
  · exact (illegalWordsAndOnlyTheseAnswerIllegalCommand s).1 (.inr (.inr (.inr (.inr ⟨hop, hz⟩))))

/-- Settles O32: of byte 0 every other channel sees bits 7:5 alone (`outcomeOf_res_congr_of_typeCode`). -/
theorem onlyTheModeChannelSeesTheLowNibble : Obligations.OnlyTheModeChannelSeesTheLowNibble :=
  fun _ _ _ _ _ hres hmode hlen htype hbyte hs ht =>
    rsp_eq_of_outcomeOf_eq (outcomeOf_res_congr_of_typeCode hlen hbyte htype hres hmode) hs ht

/-! The least lengths (R150). -/

/-- Byte 0 is 0x40 to 0x5F, whether or not it lies within the length. -/
abbrev basicByte (s : State) : Prop := 0x40 ≤ (s.byte 0).toNat ∧ (s.byte 0).toNat ≤ 0x5F

/-- The least length of the table of R150; for a RES row, its length under BASIC_STATUS. ILLEGAL reads nothing. -/
def leastLength : Instr → Nat
  | .bit boff _ | .msk boff _ | .ext boff _ _ => boff.toNat + 1
  | .ext2 boff _ _ => boff.toNat + 2
  | .illegal _ => 0
  | .mtdec | .omdec | .resIndoorTemp | .resExhaustTemp | .resSupplyFlow | .resExhaustFlow | .resSupplyFanSpeed
  | .resExhaustFanSpeed | .resOperationMode | .resUnknown _ => 1
  | .resSafetyMode | .resBypassOpened | .resSupplyFlapOpened | .resExhaustFlapOpened => 2
  | .resDefrostMode | .resCoolingProtection | .resOutdoorHeater | .resSupplyHeater | .resDrainHeater
  | .resTimerMode | .resFilterMaintenance | .resWeeklyTimer => 3
  | .resRoomTempControl | .resAirQuality1 => 4
  | .resMasterSlave | .resAirQuality2 => 5
  | .resOutdoorTemp => 6
  | .resSupplyTemp => 7

/-- The outcome is BufferBounds exactly on a telegram shorter than `n`. -/
def NeedsLength (s : State) (n : Nat) (o : Except ErrKind Result) : Prop :=
  delivered o = .error .bufferBounds ↔ s.len < n

namespace NeedsLength
variable {s : State} {n : Nat} {o : Except ErrKind Result}

theorem of_short (h : s.len < n) (ho : o = .error .bufferBounds) : NeedsLength s n o := by
  rw [ho]
  exact iff_of_true rfl h

theorem of_long (h : n ≤ s.len) (ho : delivered o ≠ .error .bufferBounds) : NeedsLength s n o :=
  iff_of_false ho (Nat.not_lt.2 h)

/-- A value behind the bounds check of the byte at `a`. -/
theorem of_checkedRead {a : Nat} {u : PhysUnit} {v : Int}
    (ho : o = if a < s.len then .ok (.value u v) else .error .bufferBounds) : NeedsLength s (a + 1) o := by
  rcases Nat.lt_or_ge a s.len with h | h
  · refine of_long h ?_
    rw [ho, if_pos h]
    exact nofun
  · exact of_short (Nat.lt_succ_of_le h) (ho.trans (if_neg (Nat.not_lt.2 h)))

theorem of_flag (a k : Nat) (u : PhysUnit) : NeedsLength s (a + 1) (flag s a k u) := of_checkedRead (flag_eq ..)

theorem of_airQuality (a : Nat) : NeedsLength s (a + 1) (airQuality s a) := of_checkedRead (airQuality_eq ..)

theorem of_readMessageType : NeedsLength s 1 (readMessageType s) := by
  rcases Nat.eq_zero_or_pos s.len with h | h
  · exact of_short (by omega) (readMessageType_of_empty h)
  · refine of_long h ?_
    rw [readMessageType_of_pos h]
    split <;> exact nofun

theorem of_readOperationMode : NeedsLength s 1 (readOperationMode s) := by
  rcases Nat.eq_zero_or_pos s.len with h | h
  · exact of_short (by omega) (readOperationMode_of_empty h)
  · refine of_long h ?_
    rw [readOperationMode_of_pos h]
    cases operationModeOfCode ((s.byte 0).toNat % 16) <;> exact nofun

/-- Where the dispatch finds BASIC_STATUS, its own read of byte 0 comes before the decoder's. -/
theorem of_basicDispatch (hb : basicByte s) (ho : NeedsLength s n o) : NeedsLength s (max 1 n) (dispatch s o) := by
  rcases Nat.eq_zero_or_pos s.len with h | h
  · exact of_short (by omega) (dispatch_empty h o)
  · rw [dispatch_basic ⟨h, hb⟩]
    exact ho.trans (by omega)

/-- Elsewhere the read of byte 0 is the only one. -/
theorem of_otherDispatch (hb : ¬ basicByte s) : NeedsLength s 1 (dispatch s o) := by
  rcases telegram_cases s with h | ⟨-, h⟩ | h | h
  · exact of_short (by omega) (dispatch_empty h o)
  · exact absurd h hb
  · exact of_long h.1 (by rw [dispatch_other h]; exact nofun)
  · exact of_long h.1 (by rw [dispatch_invalid h]; exact nofun)

end NeedsLength

section
variable {s : State} {i : Instr}

/-- Every instruction needs its least length, row by row of R150. -/
theorem outcomeOf_needsLength (hb : isRes i → basicByte s) : NeedsLength s (leastLength i) (outcomeOf i s) := by
  cases i
  case bit => exact .of_checkedRead (readBit_eq ..)
  case msk => exact .of_checkedRead (readMasked_eq ..)
  case ext => exact .of_checkedRead (readRange_eq ..)
  case ext2 => exact .of_checkedRead (readRangeOfPair_eq ..)
  case mtdec => exact .of_readMessageType
  case omdec => exact .of_readOperationMode
  case illegal => exact .of_long (Nat.zero_le _) nofun
  all_goals have hb := hb (Option.some_ne_none _)
  case resAirQuality1 | resAirQuality2 => exact .of_basicDispatch hb (.of_airQuality _)
  case resOutdoorTemp => exact .of_basicDispatch hb (.of_checkedRead (outdoorTemp_eq s))
  case resSupplyTemp => exact .of_basicDispatch hb (.of_checkedRead (supplyTemp_eq s))
  case resOperationMode => exact .of_basicDispatch hb .of_readOperationMode
  case resIndoorTemp | resExhaustTemp | resSupplyFlow | resExhaustFlow | resSupplyFanSpeed
      | resExhaustFanSpeed | resUnknown =>
    refine .of_basicDispatch hb (.of_long (Nat.zero_le _) ?_)
    exact nofun
  all_goals exact .of_basicDispatch hb (.of_flag ..)

/-- A consumer reads BufferBounds exactly below the length that the outcome needs. -/
theorem bufferBounds_iff_of_needsLength {n : Nat} (h : NeedsLength s n (outcomeOf i s)) :
    resultOf (exec i s) = some (.error .bufferBounds) ↔ s.len < n := by
  rw [resultOf_exec, Option.some_inj]
  exact h

theorem bufferBounds_iff (hb : isRes i → basicByte s) :
    resultOf (exec i s) = some (.error .bufferBounds) ↔ s.len < leastLength i :=
  bufferBounds_iff_of_needsLength (outcomeOf_needsLength hb)

/-- Outside BASIC_STATUS a RES row reads byte 0 alone. -/
theorem bufferBounds_iff_of_not_basicByte (hi : isRes i) (hb : ¬ basicByte s) :
    resultOf (exec i s) = some (.error .bufferBounds) ↔ s.len < 1 := by
  obtain ⟨f, hf⟩ := outcomeOf_res hi s
  exact bufferBounds_iff_of_needsLength (hf ▸ .of_otherDispatch hb)

/-- Channels 18 to 255 read no byte but byte 0. -/
theorem leastLength_of_chan_ge {c : BitVec 8} (hi : i.channelCode = some c) (hc : 18 ≤ c.toNat) :
    leastLength i = 1 := by
  cases i
  case resIndoorTemp | resExhaustTemp | resSupplyFlow | resExhaustFlow | resSupplyFanSpeed
      | resExhaustFanSpeed | resOperationMode | resUnknown => rfl
  all_goals cases hi
  all_goals exact absurd hc (by decide)

/-- The named readers read the first seven bytes of a telegram. -/
theorem leastLength_le_seven (hi : i = .mtdec ∨ i = .omdec ∨ isRes i) : leastLength i ≤ 7 := by
  rcases hi with rfl | rfl | hres
  · decide
  · decide
  · cases i
    case bit | msk | ext | ext2 | mtdec | omdec | illegal => exact absurd rfl hres
    all_goals exact Nat.le_of_ble_eq_true rfl

/-- One row of the table of R150: instructions that share a least length. -/
theorem bufferBounds_iff_of_row {row : List Instr} {n : Nat} (hrow : ∀ i ∈ row, leastLength i = n)
    (hb : basicByte s ∨ ∀ i ∈ row, ¬ isRes i) :
    ∀ i ∈ row, (resultOf (exec i s) = some (.error .bufferBounds) ↔ s.len < n) :=
  fun i hi => hrow i hi ▸ bufferBounds_iff fun hres => hb.resolve_right fun hno => hno i hi hres

/-- Seven bytes are enough for the named readers, whatever byte 0 is. -/
theorem not_bufferBounds_of_seven_le (hlen : 7 ≤ s.len) (hi : i = .mtdec ∨ i = .omdec ∨ isRes i) :
    resultOf (exec i s) ≠ some (.error .bufferBounds) := by
  have hseven := leastLength_le_seven hi
  by_cases hb : isRes i → basicByte s
  · exact mt (bufferBounds_iff hb).1 (by omega)
  · obtain ⟨hres, hother⟩ := Classical.not_imp.1 hb
    exact mt (bufferBounds_iff_of_not_basicByte hres hother).1 (by omega)

end

/-- Settles O35: the table of R150 is `leastLength`, read row by row. -/
theorem leastLengthsThatAvoidBufferBounds : Obligations.LeastLengthsThatAvoidBufferBounds := by
  intro s fails
  refine ⟨?_, fun i hi hb => bufferBounds_iff_of_not_basicByte hi hb, fun hb => ⟨fun i c hi hc => ?_, ?_⟩,
    fun boff lsb bit mask width => ?_, fun hlen i hi => not_bufferBounds_of_seven_le hlen hi⟩
  · exact bufferBounds_iff_of_row (by decide) (.inr (by decide))
  · exact leastLength_of_chan_ge hi hc ▸ bufferBounds_iff fun _ => hb
  · exact ⟨bufferBounds_iff_of_row (by decide) (.inl hb), bufferBounds_iff_of_row (by decide) (.inl hb),
      bufferBounds_iff_of_row (by decide) (.inl hb), bufferBounds_iff_of_row (by decide) (.inl hb),
      bufferBounds_iff fun _ => hb, bufferBounds_iff fun _ => hb⟩
  · have hlast : s.len < leastLength (.ext2 15 lsb width) := Nat.lt_succ_of_le (len_le s)
    exact ⟨bufferBounds_iff (absurd rfl), bufferBounds_iff (absurd rfl), bufferBounds_iff (absurd rfl),
      bufferBounds_iff (absurd rfl), (bufferBounds_iff (absurd rfl)).2 hlast⟩

end Sys2Proof.Machine

/-! PROOFS. The statements of 60_exceptions.md: which results each row of the opcode table ends in and exactly when it
ends in UNDEFINED, UNSUPPORTED or InvalidEnumCode, what an error response holds, and what a step leaves behind. -/

namespace Sys2Proof.Machine

/-! The invariant (R34, R160): a step touches the response alone, and the response is a packed result of the range of
its instruction. -/

/-- The range of every instruction lies in the range of its unit. -/
theorem reachable_of_valueRange {i : Instr} {u : PhysUnit} {lo hi v : Int} (hrange : valueRange i = some (u, lo, hi))
    (hlo : lo ≤ v) (hhi : v ≤ hi) : (Result.value u v).reachable = true := by
  cases i <;> cases hrange
  all_goals exact decide_eq_true (by omega)

theorem delivered_reachable (i : Instr) (s : State) : (delivered (outcomeOf i s)).reachable = true := by
  cases h : delivered (outcomeOf i s) with
  | value u v =>
    obtain ⟨lo, hi, hrange, hlo, hhi⟩ := outcomeOf_withinRange i s u v (delivered_eq_value.1 h)
    exact reachable_of_valueRange hrange hlo hhi
  | undefined | unsupported | error => rfl

theorem producible_rsp_exec (i : Instr) (s : State) : producible (delivered (outcomeOf i s)).pack = true := by
  rw [producible, unpack_rsp_exec]
  exact delivered_reachable i s

/-- Settles O45: the telegram is an input, which no step drives, and whatever an instruction delivers is producible
(`producible_rsp_exec`). -/
theorem everyStepKeepsTheInvariant : Obligations.EveryStepKeepsTheInvariant := by
  refine ⟨fun s s' hinv h => ?_, fun s s' h => ?_⟩
  · obtain ⟨hcanonical, -⟩ := hinv
    rw [step_eq] at h
    cases h
    exact ⟨hcanonical, producible_rsp_exec _ s⟩
  · rw [step_eq] at h
    cases h
    exact producible_rsp_exec _ s

/-! The rows of R168. -/

/-- The results of a bounds-checked read: a value in the unit `u`, or BufferBounds. -/
def FromRead (u : PhysUnit) (r : Result) : Prop := (∃ v, r = .value u v) ∨ r = .error .bufferBounds

/-- The results of a codec: those of a read, or InvalidEnumCode. -/
def FromCodec (u : PhysUnit) (r : Result) : Prop :=
  (∃ v, r = .value u v) ∨ r = .error .bufferBounds ∨ r = .error .invalidEnumCode

theorem FromRead.of_checkedRead {c : Prop} [Decidable c] {o : Except ErrKind Result} {u : PhysUnit} {v : Int}
    (ho : o = if c then .ok (.value u v) else .error .bufferBounds) : FromRead u (delivered o) := by
  rw [ho, delivered_ite]
  split
  · exact .inl ⟨v, rfl⟩
  · exact .inr rfl

theorem FromRead.ne {u : PhysUnit} {r x : Result} (h : FromRead u r) (hvalue : ∀ v, x ≠ .value u v)
    (hbounds : x ≠ .error .bufferBounds) : r ≠ x := by
  rcases h with ⟨v, rfl⟩ | rfl
  · exact (hvalue v).symm
  · exact hbounds.symm

theorem FromCodec.ne {u : PhysUnit} {r x : Result} (h : FromCodec u r) (hvalue : ∀ v, x ≠ .value u v)
    (herror : ∀ k, x ≠ .error k) : r ≠ x := by
  rcases h with ⟨v, rfl⟩ | rfl | rfl
  · exact (hvalue v).symm
  · exact (herror _).symm
  · exact (herror _).symm

section
variable (s : State)

theorem fromCodec_readMessageType : FromCodec .enumMsgType (delivered (readMessageType s)) := by
  rcases Nat.eq_zero_or_pos s.len with h | h
  · rw [readMessageType_of_empty h]
    exact .inr (.inl rfl)
  · rw [readMessageType_of_pos h, delivered_ite]
    split
    · exact .inl ⟨_, rfl⟩
    · exact .inr (.inr rfl)

theorem fromCodec_readOperationMode : FromCodec .enumOpMode (delivered (readOperationMode s)) := by
  rcases Nat.eq_zero_or_pos s.len with h | h
  · rw [readOperationMode_of_empty h]
    exact .inr (.inl rfl)
  · rw [readOperationMode_of_pos h]
    cases operationModeOfCode ((s.byte 0).toNat % 16) with
    | none => exact .inr (.inr rfl)
    | some m => exact .inl ⟨_, rfl⟩

end

/-- The message-type codec fails exactly on the upper half of the byte values (R100, R162). -/
theorem readMessageType_invalid_iff (s : State) :
    delivered (readMessageType s) = .error .invalidEnumCode ↔ invalidMessageType s := by
  rcases Nat.eq_zero_or_pos s.len with h | h
  · rw [readMessageType_of_empty h]
    exact iff_of_false nofun fun ⟨hpos, _⟩ => absurd hpos (by omega)
  · rw [readMessageType_of_pos h, delivered_ite]
    split
    next hlow => exact iff_of_false nofun fun ⟨_, hhigh⟩ => absurd hhigh (by omega)
    next hhigh => exact iff_of_true rfl ⟨h, Nat.not_lt.1 hhigh⟩

/-- The nibbles outside the mode table are the seven of R161. -/
theorem operationModeOfCode_eq_none_iff (s : State) :
    operationModeOfCode ((s.byte 0).toNat % 16) = none ↔ invalidModeNibble s := by
  refine ⟨fun h => ?_, operationModeOfCode_of_invalid⟩
  rw [← Option.not_isSome_iff_eq_none, operationModeOfCode_isSome] at h
  simp only [invalidModeNibble, List.mem_cons, List.not_mem_nil, or_false] at h ⊢
  omega

/-- The operation-mode codec fails exactly on the nibbles outside its table (R101, R162). -/
theorem readOperationMode_invalid_iff (s : State) :
    delivered (readOperationMode s) = .error .invalidEnumCode ↔ 0 < s.len ∧ invalidModeNibble s := by
  rcases Nat.eq_zero_or_pos s.len with h | h
  · rw [readOperationMode_of_empty h]
    exact iff_of_false nofun fun ⟨hpos, _⟩ => absurd hpos (by omega)
  · rw [readOperationMode_of_pos h, ← operationModeOfCode_eq_none_iff]
    cases operationModeOfCode ((s.byte 0).toNat % 16) with
    | none => exact iff_of_true rfl ⟨h, rfl⟩
    | some m => exact iff_of_false nofun nofun

theorem fromRead_of_generic {i : Instr} (hi : genericOffset i ≠ none) (s : State) :
    FromRead .raw (delivered (outcomeOf i s)) := by
  cases i
  case bit => exact .of_checkedRead (readBit_eq ..)
  case msk => exact .of_checkedRead (readMasked_eq ..)
  case ext => exact .of_checkedRead (readRange_eq ..)
  case ext2 => exact .of_checkedRead (readRangeOfPair_eq ..)
  all_goals exact absurd rfl hi

/-- What the row `i` of the channel code `c` yields behind the dispatch, in the four groups of R168. -/
inductive ChannelResult (s : State) (i : Instr) (c : BitVec 8) (r : Result) : Prop where
  | reading (u : PhysUnit) (hc : c.toNat ≤ 17) (hr : FromRead u r)
  | unsupported (hlo : 18 ≤ c.toNat) (hhi : c.toNat ≤ 23) (hr : r = .unsupported)
  | mode (hi : i = .resOperationMode) (hr : r = delivered (readOperationMode s))
  | unknown (hi : i = .resUnknown c) (hr : r = .undefined)

/-- A RES row is the dispatch in front of a decoder of its group. -/
theorem outcomeOf_channel {i : Instr} {c : BitVec 8} (hc : i.channelCode = some c) (s : State) :
    ∃ f, outcomeOf i s = dispatch s f ∧ ChannelResult s i c (delivered f) := by
  cases i <;> cases hc
  case resAirQuality1 | resAirQuality2 =>
    exact ⟨_, rfl, .reading _ (by decide) (.of_checkedRead (airQuality_eq ..))⟩
  case resOutdoorTemp => exact ⟨_, rfl, .reading _ (by decide) (.of_checkedRead (outdoorTemp_eq s))⟩
  case resSupplyTemp => exact ⟨_, rfl, .reading _ (by decide) (.of_checkedRead (supplyTemp_eq s))⟩
  case resIndoorTemp | resExhaustTemp | resSupplyFlow | resExhaustFlow | resSupplyFanSpeed | resExhaustFanSpeed =>
    exact ⟨_, rfl, .unsupported (by decide) (by decide) rfl⟩
  case resOperationMode => exact ⟨_, rfl, .mode rfl rfl⟩
  case resUnknown => exact ⟨_, rfl, .unknown rfl rfl⟩
  all_goals exact ⟨_, rfl, .reading _ (by decide) (.of_checkedRead (flag_eq ..))⟩

/-- The rows outside RES. -/
theorem rows_of_channelCode_none {i : Instr} (hi : i.channelCode = none) :
    genericOffset i ≠ none ∨ i = .mtdec ∨ i = .omdec ∨ ∃ w, i = .illegal w := by
  cases i
  case bit | msk | ext | ext2 => exact .inl (Option.some_ne_none _)
  case mtdec => exact .inr (.inl rfl)
  case omdec => exact .inr (.inr (.inl rfl))
  case illegal w => exact .inr (.inr (.inr ⟨w, rfl⟩))
  all_goals cases hi

/-- A row outside RES answers with a value or an error. -/
theorem delivered_of_channelCode_none {i : Instr} (hi : i.channelCode = none) (s : State) {r : Result}
    (hvalue : ∀ u v, r ≠ .value u v) (herror : ∀ k, r ≠ .error k) : delivered (outcomeOf i s) ≠ r := by
  rcases rows_of_channelCode_none hi with hgeneric | rfl | rfl | ⟨w, rfl⟩
  · exact (fromRead_of_generic hgeneric s).ne (hvalue _) (herror _)
  · exact (fromCodec_readMessageType s).ne (hvalue _) herror
  · exact (fromCodec_readOperationMode s).ne (hvalue _) herror
  · exact (herror _).symm

/-- What the dispatch delivers, by the four kinds of telegram. -/
theorem delivered_dispatch_iff {s : State} {f : Except ErrKind Result} {r : Result} :
    delivered (dispatch s f) = r ↔
      (s.len = 0 ∧ r = .error .bufferBounds) ∨ (basicStatus s ∧ delivered f = r) ∨
        (otherMessageType s ∧ r = .undefined) ∨ (invalidMessageType s ∧ r = .error .invalidEnumCode) := by
  constructor
  · rintro rfl
    rcases telegram_cases s with h | h | h | h
    · exact .inl ⟨h, by rw [dispatch_empty h, delivered_error]⟩
    · exact .inr (.inl ⟨h, by rw [dispatch_basic h]⟩)
    · exact .inr (.inr (.inl ⟨h, by rw [dispatch_other h, delivered_ok]⟩))
    · exact .inr (.inr (.inr ⟨h, by rw [dispatch_invalid h, delivered_error]⟩))
  · rintro (⟨h, rfl⟩ | ⟨h, rfl⟩ | ⟨h, rfl⟩ | ⟨h, rfl⟩)
    · rw [dispatch_empty h, delivered_error]
    · rw [dispatch_basic h]
    · rw [dispatch_other h, delivered_ok]
    · rw [dispatch_invalid h, delivered_error]

section
variable {s : State} {f : Except ErrKind Result}

theorem dispatch_undefined_iff : delivered (dispatch s f) = .undefined ↔
    otherMessageType s ∨ (basicStatus s ∧ delivered f = .undefined) := by
  simp [delivered_dispatch_iff, or_comm]

theorem dispatch_unsupported_iff : delivered (dispatch s f) = .unsupported ↔
    basicStatus s ∧ delivered f = .unsupported := by
  simp [delivered_dispatch_iff]

theorem dispatch_invalidEnumCode_iff : delivered (dispatch s f) = .error .invalidEnumCode ↔
    invalidMessageType s ∨ (basicStatus s ∧ delivered f = .error .invalidEnumCode) := by
  simp [delivered_dispatch_iff, or_comm]

end

namespace ChannelResult
variable {s : State} {i : Instr} {c : BitVec 8} {r : Result}

/-- No decoder belongs to a code from 25 on, and every decoder answers otherwise (R143, R167). -/
theorem undefined_iff (h : ChannelResult s i c r) (hwf : i.wellFormed = true) (hc : i.channelCode = some c) :
    r = .undefined ↔ 25 ≤ c.toNat := by
  rcases h with ⟨u, hle, hr⟩ | ⟨-, hhi, rfl⟩ | ⟨rfl, rfl⟩ | ⟨rfl, rfl⟩
  · exact iff_of_false (hr.ne (fun _ => nofun) nofun) (by omega)
  · exact iff_of_false nofun (by omega)
  · cases hc
    exact iff_of_false ((fromCodec_readOperationMode s).ne (fun _ => nofun) (fun _ => nofun)) (by decide)
  · exact iff_of_true rfl (of_decide_eq_true hwf)

theorem unsupported_iff (h : ChannelResult s i c r) (hwf : i.wellFormed = true) (hc : i.channelCode = some c) :
    r = .unsupported ↔ 18 ≤ c.toNat ∧ c.toNat ≤ 23 := by
  rcases h with ⟨u, hle, hr⟩ | ⟨hlo, hhi, rfl⟩ | ⟨rfl, rfl⟩ | ⟨rfl, rfl⟩
  · exact iff_of_false (hr.ne (fun _ => nofun) nofun) (by omega)
  · exact iff_of_true rfl ⟨hlo, hhi⟩
  · cases hc
    exact iff_of_false ((fromCodec_readOperationMode s).ne (fun _ => nofun) (fun _ => nofun)) (by decide)
  · have hge : 25 ≤ c.toNat := of_decide_eq_true hwf
    exact iff_of_false nofun (by omega)

/-- Behind the dispatch only OPERATION_MODE consults a codec (R134, R162). -/
theorem invalidEnumCode_iff (h : ChannelResult s i c r) (hc : i.channelCode = some c) (hpos : 0 < s.len) :
    r = .error .invalidEnumCode ↔ i = .resOperationMode ∧ invalidModeNibble s := by
  rcases h with ⟨u, hle, hr⟩ | ⟨-, hhi, rfl⟩ | ⟨rfl, rfl⟩ | ⟨rfl, rfl⟩
  · refine iff_of_false (hr.ne (fun _ => nofun) nofun) ?_
    rintro ⟨rfl, -⟩
    cases hc
    exact absurd hle (by decide)
  · refine iff_of_false nofun ?_
    rintro ⟨rfl, -⟩
    cases hc
    exact absurd hhi (by decide)
  · rw [readOperationMode_invalid_iff, and_iff_right hpos, and_iff_right rfl]
  · exact iff_of_false nofun nofun

/-- The row of a channel in the table of R168. -/
theorem allowed (h : ChannelResult s i c r) (hc : i.channelCode = some c) :
    r = .error .bufferBounds ∨ r = .error .invalidEnumCode ∨ r = .undefined ∨
      ((c.toNat ≤ 17 ∨ c.toNat = 24) ∧ ∃ u v, r = .value u v) ∨
      (18 ≤ c.toNat ∧ c.toNat ≤ 23 ∧ r = .unsupported) := by
  rcases h with ⟨u, hle, ⟨v, hr⟩ | hr⟩ | ⟨hlo, hhi, hr⟩ | ⟨rfl, rfl⟩ | ⟨-, hr⟩
  · exact .inr (.inr (.inr (.inl ⟨.inl hle, u, v, hr⟩)))
  · exact .inl hr
  · exact .inr (.inr (.inr (.inr ⟨hlo, hhi, hr⟩)))
  · cases hc
    rcases fromCodec_readOperationMode s with ⟨v, hr⟩ | hr | hr
    · exact .inr (.inr (.inr (.inl ⟨.inr rfl, _, v, hr⟩)))
    · exact .inl hr
    · exact .inr (.inl hr)
  · exact .inr (.inr (.inl hr))

end ChannelResult

/-- Settles O36: outside RES there are values and errors alone; in RES the dispatch answers UNDEFINED, or the codes
without a decoder do. -/
theorem undefinedComesFromResAloneInTwoCases : Obligations.UndefinedComesFromResAloneInTwoCases := by
  intro i s hwf
  rw [resultOf_exec, Option.some_inj]
  cases hc : i.channelCode with
  | none => exact iff_of_false (delivered_of_channelCode_none hc s nofun nofun) nofun
  | some c =>
    obtain ⟨f, hf, hchannel⟩ := outcomeOf_channel hc s
    rw [hf, dispatch_undefined_iff, hchannel.undefined_iff hwf hc]
    simp only [Option.some_inj, exists_eq_left']

/-- UNSUPPORTED shares its word with no other result: the tags differ (R71). -/
theorem eq_unsupported_of_pack {r : Result} (h : r.pack = Result.unsupported.pack) : r = .unsupported := by
  have htag := congrArg tagField h
  rw [tagField_pack, tagField_pack] at htag
  cases r with
  | unsupported => rfl
  | value u v => exact absurd htag (show Tag.value.code ≠ Tag.unsupported.code by decide)
  | undefined => exact absurd htag (by decide)
  | error k => exact absurd htag (show Tag.error.code ≠ Tag.unsupported.code by decide)

/-- Settles O37: only a decoder behind the dispatch answers UNSUPPORTED. -/
theorem unsupportedComesFromSixChannelsAlone : Obligations.UnsupportedComesFromSixChannelsAlone := by
  refine ⟨fun i s hwf => ?_, fun _ => eq_unsupported_of_pack⟩
  rw [resultOf_exec, Option.some_inj]
  cases hc : i.channelCode with
  | none => exact iff_of_false (delivered_of_channelCode_none hc s nofun nofun) nofun
  | some c =>
    obtain ⟨f, hf, hchannel⟩ := outcomeOf_channel hc s
    rw [hf, dispatch_unsupported_iff, hchannel.unsupported_iff hwf hc]
    simp only [Option.some_inj, exists_eq_left']

/-- Settles O38: row by row, the codec that the row consults; RES consults one in the dispatch, and OPERATION_MODE a
second one behind it. -/
theorem invalidEnumCodeComesFromTheTwoCodecsAlone : Obligations.InvalidEnumCodeComesFromTheTwoCodecsAlone := by
  intro i s
  rw [resultOf_exec, Option.some_inj]
  cases hc : i.channelCode with
  | some c =>
    obtain ⟨f, hf, hchannel⟩ := outcomeOf_channel hc s
    have hres : i = .mtdec ∨ isRes i := .inr (by simp [hc])
    have homdec : i ≠ .omdec := by rintro rfl; cases hc
    have hbehind : basicStatus s ∧ delivered f = .error .invalidEnumCode ↔
        i = .resOperationMode ∧ basicStatus s ∧ invalidModeNibble s :=
      (and_congr_right fun hs => hchannel.invalidEnumCode_iff hc hs.1).trans and_left_comm
    rw [hf, dispatch_invalidEnumCode_iff, hbehind]
    simp only [hres, homdec, true_and, false_and, false_or]
  | none =>
    rcases rows_of_channelCode_none hc with hgeneric | rfl | rfl | ⟨w, rfl⟩
    · have hread := fromRead_of_generic hgeneric s
      refine iff_of_false (hread.ne (fun _ => nofun) nofun) ?_
      rintro (⟨rfl | hres, -⟩ | ⟨rfl, -⟩ | ⟨rfl, -⟩)
      · exact hgeneric rfl
      · exact hres hc
      · exact hgeneric rfl
      · exact hgeneric rfl
    · rw [outcomeOf, readMessageType_invalid_iff]
      simp
    · rw [outcomeOf, readOperationMode_invalid_iff]
      simp [hc]
    · simp [outcomeOf, hc]

/-- Settles O39: the dispatch delivers an outcome of its own or its decoder's (`delivered_dispatch_iff`), and the
decoder is of the group of its channel code. -/
theorem eachOperationEndsOnlyInItsOutcomes : Obligations.EachOperationEndsOnlyInItsOutcomes := by
  intro i s r hwf h
  rw [resultOf_exec, Option.some_inj] at h
  refine ⟨fun hgeneric => h ▸ fromRead_of_generic hgeneric s, ?_, ?_, fun c hc => ?_, ?_⟩
  · rintro rfl
    exact h ▸ fromCodec_readMessageType s
  · rintro rfl
    exact h ▸ fromCodec_readOperationMode s
  · obtain ⟨f, hf, hchannel⟩ := outcomeOf_channel hc s
    rw [hf, delivered_dispatch_iff] at h
    rcases h with ⟨-, rfl⟩ | ⟨-, rfl⟩ | ⟨-, rfl⟩ | ⟨-, rfl⟩
    · exact .inl rfl
    · exact hchannel.allowed hc
    · exact .inr (.inr (.inl rfl))
    · exact .inr (.inl rfl)
  · rintro w rfl
    exact h.symm

/-! What an error response holds (R164). -/

theorem error_pack_mem (k : ErrKind) : (Result.error k).pack ∈ [0xD0000000#32, 0xE0000000#32, 0xF0000000#32] := by
  cases k <;> decide

/-- Settles O44: the response is a packed result, and its tag is that of the result. -/
theorem errorsCarryTheirKindAlone : Obligations.ErrorsCarryTheirKindAlone := by
  intro i s t h
  rw [exec_eq] at h
  cases h
  rw [tagField_pack]
  cases delivered (outcomeOf i s) with
  | value u v => exact ⟨fun htag => absurd htag (show Tag.value.code ≠ 3 by decide), fun htag => absurd rfl htag⟩
  | undefined => exact ⟨fun htag => absurd htag (by decide), fun _ => unit_val_pack nofun⟩
  | unsupported => exact ⟨fun htag => absurd htag (by decide), fun _ => unit_val_pack nofun⟩
  | error k =>
    obtain ⟨hunit, hval⟩ := unit_val_pack (r := .error k) nofun
    exact ⟨fun _ => ⟨hunit, hval, error_pack_mem k⟩, fun _ => ⟨hunit, hval⟩⟩

/-! What a request leaves behind (R172). -/

/-- Presenting a request drives every input, so of the state before it the next step sees nothing. -/
theorem step_present_eq (r : Request) (s t : State) : step (present r t) = step (present r s) := by
  rw [step_present, step_present]
  rfl

/-- A session is answered part by part. -/
theorem serve_append (qs rs : List Request) (s : State) : serve (qs ++ rs) s = serve qs s ++ serve rs s := by
  simp only [sessionAnswersEachRequestByItself _ s, List.map_append]

theorem serve_cons {q : Request} {s t : State} (h : step (present q s) = .next t) (rs : List Request) :
    serve (q :: rs) s = t.rsp :: serve rs t := by
  rw [serve, h]

/-- Settles O52: no request leaves a trace, a failed one neither (R172 says it of those); the tag plays no part. -/
theorem failedRequestsLeaveNoTrace : Obligations.FailedRequestsLeaveNoTrace := by
  intro q s t h _
  refine ⟨fun r => step_present_eq r s t, (step_present_eq q s t).trans h,
    fun qs rs => ⟨?_, serve_append qs rs s⟩⟩
  have htail : serve rs t = serve rs s := by
    rw [sessionAnswersEachRequestByItself, sessionAnswersEachRequestByItself]
  rw [serve_append, serve_cons h, htail]

/-! BufferBounds by the length (R163). -/

/-- Settles O57: by R150 the least length is that of the command, and for a RES row byte 0 says which of its two it
is. -/
theorem boundsErrorsDependOnLengthAlone : Obligations.BoundsErrorsDependOnLengthAlone := by
  intro i s t hlen hbyte
  by_cases hb : isRes i → basicByte s
  · have hbt : isRes i → basicByte t := fun hres => by
      rw [basicByte, ← hbyte hres]
      exact hb hres
    rw [bufferBounds_iff hb, bufferBounds_iff hbt, hlen]
  · obtain ⟨hres, hother⟩ := Classical.not_imp.1 hb
    have hothert : ¬ basicByte t := by rwa [basicByte, ← hbyte hres]
    rw [bufferBounds_iff_of_not_basicByte hres hother, bufferBounds_iff_of_not_basicByte hres hothert, hlen]

end Sys2Proof.Machine
